-- ==== Sys2Proof/Word.lean ====
section
/-! DEFINITION. The two widths of the hardware: the 8-bit byte that an address names and a general
register holds, and the 16-bit word of instructions, register pairs and addresses (00_scope.md R7). -/

namespace Sys2Proof

/-- One addressable unit, and the width of a general register (R7). -/
abbrev Byte := BitVec 8

/-- An instruction word, an address, a register pair, the program counter (R7). -/
abbrev Word := BitVec 16

end Sys2Proof
end

