-- ==== Sys2Proof/Config.lean ====
section
/-! DEFINITION. What the spec leaves to a named parameter (00_scope.md R8, 92_eei_decisions.md): the
parameters that have a default stand here with that default, and `INIT` and the initial content of `MEM`
with the values that the log names; the two OPEN ones that the model needs and the arbitrary values (`draw`)
are constants with no body, so that nothing can be proved about which value they take. The third OPEN one,
`PREFETCH_DEPTH`, is not needed while the fetch of a stored byte is refused (R52, D23; log 9, log 10). -/

namespace Sys2Proof

/-- The two orders of the bytes of a 16-bit value in memory (R42). -/
inductive ByteOrder where
  | little
  | big
deriving DecidableEq, Repr

/-- The two extensions that operand code `001rrr` of a 16-bit instruction can denote (R96). -/
inductive Extension where
  | sext
  | zext
deriving DecidableEq, Repr, Inhabited

/-- The two steps that a stepped or scaled `src8` of a 16-bit instruction can have (R109). -/
inductive Src8Step where
  | one
  | two
deriving DecidableEq, Repr, Inhabited

/-- What an instruction leaves in a flag that it does not compute: the flag stays, or it takes an arbitrary
value (R13, R26). -/
inductive FlagAfter where
  | unchanged
  | drawn
deriving DecidableEq, Repr

/-- What an instruction leaves in each flag (R26). -/
structure FlagsAfter where
  z : FlagAfter
  s : FlagAfter
  v : FlagAfter
  c : FlagAfter
deriving DecidableEq, Repr

/-- The instructions whose flags the parameter `FLAGS_AFTER` gives (R8). -/
inductive FlagsAfterGroup where
  /-- `shl`, `shr`, `sar`, `rol`, `ror` (R183). -/
  | shift
  /-- `mul` (R201). -/
  | mul
  /-- `not` (R126). -/
  | not
deriving DecidableEq, Repr

/-- `BYTE_ORDER`, default little-endian (R42, D1; log 1). -/
def Config.byteOrder : ByteOrder := .little

/-- `MUL_IMM_SELECT`: the value of bit `z` that selects `mul reg, imm6` (R73, D5; log 2). -/
def Config.mulImmBit : Bool := true

/-- `FLAGS_AFTER`: what shifts, `mul` and `not` leave in the flags. Default: an arbitrary value in all four after a shift
or `mul`, in `z` and `s` after `not`, whose `v` and `c` stay (R8, R26, D9; log 19). -/
def Config.flagsAfter : FlagsAfterGroup → FlagsAfter
  | .shift | .mul => { z := .drawn, s := .drawn, v := .drawn, c := .drawn }
  | .not => { z := .drawn, s := .drawn, v := .unchanged, c := .unchanged }

/-- `INIT`: what each of the registers `a` to `h` and `p` holds after reset (R8, R32; log 6). -/
def Config.initByte : Byte := 0

/-- `INIT`: what each flag holds after reset (R8, R32; log 6). -/
def Config.initFlag : Bool := false

/-- `MEM`: what a byte of memory holds that nothing has loaded or stored (R8, R40; log 7). -/
def Config.initMem : Byte := 0

/-- `EXT16_SELECT`: which extension the operand code `001rrr` denotes in the 16-bit instruction
whose first word is given (R96, D26). OPEN in the spec: any function is possible (log 3). -/
opaque Config.ext16Select : Word → Extension

/-- `SRC8_STEP16`: step and scale of a memory-mode or `[pop]` operand `src8` under a 16-bit shift or
multiply (R109, D18). OPEN in the spec: either value is possible (log 4). -/
opaque Config.src8Step16 : Src8Step

/-- The arbitrary values of R13 (`draw`), the k-th one consumed being `Config.draw k` (log 5). -/
opaque Config.draw : Nat → BitVec 4

end Sys2Proof
end

