-- ==== Sys2Proof/Syntax.lean ====
section
/-! DEFINITION. The instructions and their operands as data: one constructor of `Instr` for each row of
spec/opcode_table.json, and one inductive for each kind of operand (30_encoding.md R66, R78, R79). -/

namespace Sys2Proof

/-- The 8 general registers, numbered 0 to 7 in this order (R16). -/
inductive Reg8 where
  | a | b | c | d | e | f | g | h
deriving DecidableEq, Repr

/-- The 4 register pairs, numbered 0 to 3 in this order; the letter written first is the upper half (R17, R18). -/
inductive Reg16 where
  | ba | dc | fe | hg
deriving DecidableEq, Repr

/-- The memory forms that every general operand can take (R99 to R103). -/
inductive MemMode where
  /-- `[r16 + zext(r8)]`; the index is not a half of the base (R80, R100). -/
  | indexed (base : Reg16) (index : Reg8)
  /-- `[r16++]` (R101). -/
  | postInc (ptr : Reg16)
  /-- `[--r16]` (R102). -/
  | preDec (ptr : Reg16)
  /-- `[r16 + imm2]`, the offset in operands (R103). -/
  | disp (base : Reg16) (imm2 : BitVec 2)
  /-- `[imm16]`, the address in the next instruction word (R99). -/
  | abs (addr : Word)
deriving DecidableEq, Repr

/-- `src` of an 8-bit instruction (R79, role SRC, W = 8). The whole `imm16` word is kept, of which only the
low byte is used (R98). -/
inductive ByteSrc where
  | reg (r : Reg8)
  | flags
  | sp
  | imm (v : Word)
  | pop
  | mem (m : MemMode)
deriving DecidableEq, Repr

/-- `src` of a 16-bit instruction and `src16` of `jump` and `call` (R79, role SRC with W = 16, role SRC16). -/
inductive WordSrc where
  | reg (k : Reg16)
  /-- `sext(r8)` or `zext(r8)`: one operand code for both (R96). -/
  | ext (r : Reg8)
  | sp
  | imm (v : Word)
  | pop
  | mem (m : MemMode)
deriving DecidableEq, Repr

/-- `dest` of an 8-bit instruction (R79, roles DEST_W and DEST_RMW). `stack` is `[push]` where the
instruction does not read its destination and `[sp]` where it does (R81). -/
inductive ByteDest where
  | reg (r : Reg8)
  | flags
  | sp
  | stack
  | mem (m : MemMode)
deriving DecidableEq, Repr

/-- `dest` of a 16-bit instruction (R79, roles DEST_W and DEST_RMW); `stack` as in `ByteDest`. -/
inductive WordDest where
  | reg (k : Reg16)
  | sp
  | stack
  | mem (m : MemMode)
deriving DecidableEq, Repr

/-- `src8`, the shift count or multiplier, 8 bits wide at either instruction size (R79, role SRC8). -/
inductive Src8 where
  | reg (r : Reg8)
  | sp
  | imm (v : Word)
  | pop
  | mem (m : MemMode)
deriving DecidableEq, Repr

/-- The instructions: one constructor for each row of spec/opcode_table.json. The number in a name is the
operand size; the rest names the operand form, destination first, as the row's syntax has it. -/
inductive Instr where
  /-- `1e0001rr00iiiiii`, add reg, src (R145). -/
  | add8RegSrc (r : Reg8) (src : ByteSrc)
  /-- `1e0011rr00iiiiii`, sub reg, src (R146). -/
  | sub8RegSrc (r : Reg8) (src : ByteSrc)
  /-- `1e0101rr00iiiiii`, adc reg, src (R147). -/
  | adc8RegSrc (r : Reg8) (src : ByteSrc)
  /-- `1e0111rr00iiiiii`, sbc reg, src (R148). -/
  | sbc8RegSrc (r : Reg8) (src : ByteSrc)
  /-- `1e1001rr00iiiiii`, and reg, src (R149). -/
  | and8RegSrc (r : Reg8) (src : ByteSrc)
  /-- `1e1011rr00iiiiii`, or reg, src (R150). -/
  | or8RegSrc (r : Reg8) (src : ByteSrc)
  /-- `1e1101rr00iiiiii`, xor reg, src (R151). -/
  | xor8RegSrc (r : Reg8) (src : ByteSrc)
  /-- `1e1111rr00iiiiii`, cmp reg, src (R152). -/
  | cmp8RegSrc (r : Reg8) (src : ByteSrc)
  /-- `1e0001rr01iiiiii`, add reg, imm6 (R145). -/
  | add8RegImm (r : Reg8) (imm : BitVec 6)
  /-- `1e0011rr01iiiiii`, revsub reg, imm6 (R154). -/
  | revsub8RegImm (r : Reg8) (imm : BitVec 6)
  /-- `1e0101rr01iiiiii`, adc reg, imm6 (R147). -/
  | adc8RegImm (r : Reg8) (imm : BitVec 6)
  /-- `1e0111rr01iiiiii`, revsbc reg, imm6 (R155). -/
  | revsbc8RegImm (r : Reg8) (imm : BitVec 6)
  /-- `1e1001rr01iiiiii`, and reg, imm6 (R149). -/
  | and8RegImm (r : Reg8) (imm : BitVec 6)
  /-- `1e1011rr01iiiiii`, or reg, imm6 (R150). -/
  | or8RegImm (r : Reg8) (imm : BitVec 6)
  /-- `1e1101rr01iiiiii`, xor reg, imm6 (R151). -/
  | xor8RegImm (r : Reg8) (imm : BitVec 6)
  /-- `1e1111rr01iiiiii`, cmp reg, imm6 (R152). -/
  | cmp8RegImm (r : Reg8) (imm : BitVec 6)
  /-- `1e1111rr10iiiiii`, test reg, src (R153). -/
  | test8RegSrc (r : Reg8) (src : ByteSrc)
  /-- `1e0001rr10001sss`, neg reg1, reg2 (R156). -/
  | neg8RegReg (r1 : Reg8) (r2 : Reg8)
  /-- `1e0011rr10001sss`, revsub reg1, reg2 (R154). -/
  | revsub8RegReg (r1 : Reg8) (r2 : Reg8)
  /-- `1e0101rr10001sss`, negc reg1, reg2 (R157). -/
  | negc8RegReg (r1 : Reg8) (r2 : Reg8)
  /-- `1e0111rr10001sss`, revsbc reg1, reg2 (R155). -/
  | revsbc8RegReg (r1 : Reg8) (r2 : Reg8)
  /-- `1e1001rr10001sss`, and_not reg1, reg2 (R158). -/
  | andNot8RegReg (r1 : Reg8) (r2 : Reg8)
  /-- `1e1011rr10001sss`, or_not reg1, reg2 (R159). -/
  | orNot8RegReg (r1 : Reg8) (r2 : Reg8)
  /-- `1e1101rr10001sss`, xor_not reg1, reg2 (R160). -/
  | xorNot8RegReg (r1 : Reg8) (r2 : Reg8)
  /-- `1e0001rr11iiiiii`, ror reg, src8 (R189). -/
  | ror8RegSrc8 (r : Reg8) (src : Src8)
  /-- `1e0101rr11iiiiii`, sar reg, src8 (R187). -/
  | sar8RegSrc8 (r : Reg8) (src : Src8)
  /-- `1e1001rr11iiiiii`, shr reg, src8 (R186). -/
  | shr8RegSrc8 (r : Reg8) (src : Src8)
  /-- `1e1101rr11iiiiii`, shl reg, src8 (R185). -/
  | shl8RegSrc8 (r : Reg8) (src : Src8)
  /-- `1e1111rr11iiiiii`, rol reg, src8 (R188). -/
  | rol8RegSrc8 (r : Reg8) (src : Src8)
  /-- `1e0011rr11iiiiii`, no instruction (R82). -/
  | unassignedShift8Op1 (r : Reg8) (code : BitVec 6)
  /-- `1e0111rr11iiiiii`, no instruction (R82). -/
  | unassignedShift8Op3 (r : Reg8) (code : BitVec 6)
  /-- `1e1011rr11iiiiii`, no instruction (R82). -/
  | unassignedShift8Op5 (r : Reg8) (code : BitVec 6)
  /-- `1e0000rr0iiiiiii`, add reg, [zp] (R145). -/
  | add8RegZp (r : Reg8) (zp : BitVec 7)
  /-- `1e0010rr0iiiiiii`, sub reg, [zp] (R146). -/
  | sub8RegZp (r : Reg8) (zp : BitVec 7)
  /-- `1e0100rr0iiiiiii`, adc reg, [zp] (R147). -/
  | adc8RegZp (r : Reg8) (zp : BitVec 7)
  /-- `1e0110rr0iiiiiii`, sbc reg, [zp] (R148). -/
  | sbc8RegZp (r : Reg8) (zp : BitVec 7)
  /-- `1e1000rr0iiiiiii`, and reg, [zp] (R149). -/
  | and8RegZp (r : Reg8) (zp : BitVec 7)
  /-- `1e1010rr0iiiiiii`, or reg, [zp] (R150). -/
  | or8RegZp (r : Reg8) (zp : BitVec 7)
  /-- `1e1100rr0iiiiiii`, xor reg, [zp] (R151). -/
  | xor8RegZp (r : Reg8) (zp : BitVec 7)
  /-- `1e1110rr0iiiiiii`, cmp reg, [zp] (R152). -/
  | cmp8RegZp (r : Reg8) (zp : BitVec 7)
  /-- `1e0000rr1iiiiiii`, add [zp], reg (R145). -/
  | add8ZpReg (zp : BitVec 7) (r : Reg8)
  /-- `1e0010rr1iiiiiii`, sub [zp], reg (R146). -/
  | sub8ZpReg (zp : BitVec 7) (r : Reg8)
  /-- `1e0100rr1iiiiiii`, adc [zp], reg (R147). -/
  | adc8ZpReg (zp : BitVec 7) (r : Reg8)
  /-- `1e0110rr1iiiiiii`, sbc [zp], reg (R148). -/
  | sbc8ZpReg (zp : BitVec 7) (r : Reg8)
  /-- `1e1000rr1iiiiiii`, and [zp], reg (R149). -/
  | and8ZpReg (zp : BitVec 7) (r : Reg8)
  /-- `1e1010rr1iiiiiii`, or [zp], reg (R150). -/
  | or8ZpReg (zp : BitVec 7) (r : Reg8)
  /-- `1e1100rr1iiiiiii`, xor [zp], reg (R151). -/
  | xor8ZpReg (zp : BitVec 7) (r : Reg8)
  /-- `1e1110rr1iiiiiii`, test reg, [zp] (R153). -/
  | test8RegZp (r : Reg8) (zp : BitVec 7)
  /-- `1e0001rr10iiiiii`, add dest, reg (R145). -/
  | add8DestReg (dst : ByteDest) (r : Reg8)
  /-- `1e0011rr10iiiiii`, sub dest, reg (R146). -/
  | sub8DestReg (dst : ByteDest) (r : Reg8)
  /-- `1e0101rr10iiiiii`, adc dest, reg (R147). -/
  | adc8DestReg (dst : ByteDest) (r : Reg8)
  /-- `1e0111rr10iiiiii`, sbc dest, reg (R148). -/
  | sbc8DestReg (dst : ByteDest) (r : Reg8)
  /-- `1e1001rr10iiiiii`, and dest, reg (R149). -/
  | and8DestReg (dst : ByteDest) (r : Reg8)
  /-- `1e1011rr10iiiiii`, or dest, reg (R150). -/
  | or8DestReg (dst : ByteDest) (r : Reg8)
  /-- `1e1101rr10iiiiii`, xor dest, reg (R151). -/
  | xor8DestReg (dst : ByteDest) (r : Reg8)
  /-- `010001rr00iiiiii`, add reg, src (R145). -/
  | add16RegSrc (r : Reg16) (src : WordSrc)
  /-- `010011rr00iiiiii`, sub reg, src (R146). -/
  | sub16RegSrc (r : Reg16) (src : WordSrc)
  /-- `010101rr00iiiiii`, adc reg, src (R147). -/
  | adc16RegSrc (r : Reg16) (src : WordSrc)
  /-- `010111rr00iiiiii`, sbc reg, src (R148). -/
  | sbc16RegSrc (r : Reg16) (src : WordSrc)
  /-- `011001rr00iiiiii`, and reg, src (R149). -/
  | and16RegSrc (r : Reg16) (src : WordSrc)
  /-- `011011rr00iiiiii`, or reg, src (R150). -/
  | or16RegSrc (r : Reg16) (src : WordSrc)
  /-- `011101rr00iiiiii`, xor reg, src (R151). -/
  | xor16RegSrc (r : Reg16) (src : WordSrc)
  /-- `011111rr00iiiiii`, cmp reg, src (R152). -/
  | cmp16RegSrc (r : Reg16) (src : WordSrc)
  /-- `010001rr01iiiiii`, add reg, imm6 (R145). -/
  | add16RegImm (r : Reg16) (imm : BitVec 6)
  /-- `010011rr01iiiiii`, revsub reg, imm6 (R154). -/
  | revsub16RegImm (r : Reg16) (imm : BitVec 6)
  /-- `010101rr01iiiiii`, adc reg, imm6 (R147). -/
  | adc16RegImm (r : Reg16) (imm : BitVec 6)
  /-- `010111rr01iiiiii`, revsbc reg, imm6 (R155). -/
  | revsbc16RegImm (r : Reg16) (imm : BitVec 6)
  /-- `011001rr01iiiiii`, and reg, imm6 (R149). -/
  | and16RegImm (r : Reg16) (imm : BitVec 6)
  /-- `011011rr01iiiiii`, or reg, imm6 (R150). -/
  | or16RegImm (r : Reg16) (imm : BitVec 6)
  /-- `011101rr01iiiiii`, xor reg, imm6 (R151). -/
  | xor16RegImm (r : Reg16) (imm : BitVec 6)
  /-- `011111rr01iiiiii`, cmp reg, imm6 (R152). -/
  | cmp16RegImm (r : Reg16) (imm : BitVec 6)
  /-- `011111rr10iiiiii`, test reg, src (R153). -/
  | test16RegSrc (r : Reg16) (src : WordSrc)
  /-- `010001rr10000ss0`, neg reg1, reg2 (R156). -/
  | neg16RegReg (r1 : Reg16) (r2 : Reg16)
  /-- `010011rr10000ss0`, revsub reg1, reg2 (R154). -/
  | revsub16RegReg (r1 : Reg16) (r2 : Reg16)
  /-- `010101rr10000ss0`, negc reg1, reg2 (R157). -/
  | negc16RegReg (r1 : Reg16) (r2 : Reg16)
  /-- `010111rr10000ss0`, revsbc reg1, reg2 (R155). -/
  | revsbc16RegReg (r1 : Reg16) (r2 : Reg16)
  /-- `011001rr10000ss0`, and_not reg1, reg2 (R158). -/
  | andNot16RegReg (r1 : Reg16) (r2 : Reg16)
  /-- `011011rr10000ss0`, or_not reg1, reg2 (R159). -/
  | orNot16RegReg (r1 : Reg16) (r2 : Reg16)
  /-- `011101rr10000ss0`, xor_not reg1, reg2 (R160). -/
  | xorNot16RegReg (r1 : Reg16) (r2 : Reg16)
  /-- `010001rr11iiiiii`, ror reg, src8 (R189). -/
  | ror16RegSrc8 (r : Reg16) (src : Src8)
  /-- `010101rr11iiiiii`, sar reg, src8 (R187). -/
  | sar16RegSrc8 (r : Reg16) (src : Src8)
  /-- `011001rr11iiiiii`, shr reg, src8 (R186). -/
  | shr16RegSrc8 (r : Reg16) (src : Src8)
  /-- `011101rr11iiiiii`, shl reg, src8 (R185). -/
  | shl16RegSrc8 (r : Reg16) (src : Src8)
  /-- `011111rr11iiiiii`, rol reg, src8 (R188). -/
  | rol16RegSrc8 (r : Reg16) (src : Src8)
  /-- `010011rr11iiiiii`, no instruction (R82). -/
  | unassignedShift16Op1 (r : Reg16) (code : BitVec 6)
  /-- `010111rr11iiiiii`, no instruction (R82). -/
  | unassignedShift16Op3 (r : Reg16) (code : BitVec 6)
  /-- `011011rr11iiiiii`, no instruction (R82). -/
  | unassignedShift16Op5 (r : Reg16) (code : BitVec 6)
  /-- `010000rr0iiiiiii`, add reg, [zp] (R145). -/
  | add16RegZp (r : Reg16) (zp : BitVec 7)
  /-- `010010rr0iiiiiii`, sub reg, [zp] (R146). -/
  | sub16RegZp (r : Reg16) (zp : BitVec 7)
  /-- `010100rr0iiiiiii`, adc reg, [zp] (R147). -/
  | adc16RegZp (r : Reg16) (zp : BitVec 7)
  /-- `010110rr0iiiiiii`, sbc reg, [zp] (R148). -/
  | sbc16RegZp (r : Reg16) (zp : BitVec 7)
  /-- `011000rr0iiiiiii`, and reg, [zp] (R149). -/
  | and16RegZp (r : Reg16) (zp : BitVec 7)
  /-- `011010rr0iiiiiii`, or reg, [zp] (R150). -/
  | or16RegZp (r : Reg16) (zp : BitVec 7)
  /-- `011100rr0iiiiiii`, xor reg, [zp] (R151). -/
  | xor16RegZp (r : Reg16) (zp : BitVec 7)
  /-- `011110rr0iiiiiii`, cmp reg, [zp] (R152). -/
  | cmp16RegZp (r : Reg16) (zp : BitVec 7)
  /-- `010000rr1iiiiiii`, add [zp], reg (R145). -/
  | add16ZpReg (zp : BitVec 7) (r : Reg16)
  /-- `010010rr1iiiiiii`, sub [zp], reg (R146). -/
  | sub16ZpReg (zp : BitVec 7) (r : Reg16)
  /-- `010100rr1iiiiiii`, adc [zp], reg (R147). -/
  | adc16ZpReg (zp : BitVec 7) (r : Reg16)
  /-- `010110rr1iiiiiii`, sbc [zp], reg (R148). -/
  | sbc16ZpReg (zp : BitVec 7) (r : Reg16)
  /-- `011000rr1iiiiiii`, and [zp], reg (R149). -/
  | and16ZpReg (zp : BitVec 7) (r : Reg16)
  /-- `011010rr1iiiiiii`, or [zp], reg (R150). -/
  | or16ZpReg (zp : BitVec 7) (r : Reg16)
  /-- `011100rr1iiiiiii`, xor [zp], reg (R151). -/
  | xor16ZpReg (zp : BitVec 7) (r : Reg16)
  /-- `011110rr1iiiiiii`, test reg, [zp] (R153). -/
  | test16RegZp (r : Reg16) (zp : BitVec 7)
  /-- `010001rr10iiiiii`, add dest, reg (R145). -/
  | add16DestReg (dst : WordDest) (r : Reg16)
  /-- `010011rr10iiiiii`, sub dest, reg (R146). -/
  | sub16DestReg (dst : WordDest) (r : Reg16)
  /-- `010101rr10iiiiii`, adc dest, reg (R147). -/
  | adc16DestReg (dst : WordDest) (r : Reg16)
  /-- `010111rr10iiiiii`, sbc dest, reg (R148). -/
  | sbc16DestReg (dst : WordDest) (r : Reg16)
  /-- `011001rr10iiiiii`, and dest, reg (R149). -/
  | and16DestReg (dst : WordDest) (r : Reg16)
  /-- `011011rr10iiiiii`, or dest, reg (R150). -/
  | or16DestReg (dst : WordDest) (r : Reg16)
  /-- `011101rr10iiiiii`, xor dest, reg (R151). -/
  | xor16DestReg (dst : WordDest) (r : Reg16)
  /-- `0010000000000101`, ret (R234). -/
  | ret
  /-- `0010000000iiiiii`, jump src16 (R231). -/
  | jumpSrc (src : WordSrc)
  /-- `0010000001iiiiii`, call src16 (R232). -/
  | callSrc (src : WordSrc)
  /-- `001100000ziiiiii`, no instruction (R82). -/
  | unassignedMul (data : BitVec 7)
  /-- `001g01rrbbbbbbbb`, mov reg, imm8 (R123). -/
  | mov8RegImm (r : Reg8) (imm : BitVec 8)
  /-- `001g00rr1iiiiiii`, swap [zp], reg (R129). -/
  | swap8ZpReg (zp : BitVec 7) (r : Reg8)
  /-- `001g11rr00iiiiii`, mov reg, src (R121). -/
  | mov8RegSrc (r : Reg8) (src : ByteSrc)
  /-- `001g11rr0100nnnn`, ror reg, imm4 (R189). -/
  | ror8RegImm (r : Reg8) (imm : BitVec 4)
  /-- `001g11rr0101nnnn`, sar reg, imm4 (R187). -/
  | sar8RegImm (r : Reg8) (imm : BitVec 4)
  /-- `001g11rr0110nnnn`, shr reg, imm4 (R186). -/
  | shr8RegImm (r : Reg8) (imm : BitVec 4)
  /-- `001g11rr0111nnnn`, shl reg, imm4 (R185). -/
  | shl8RegImm (r : Reg8) (imm : BitVec 4)
  /-- `001g11rr10001sss`, not reg1, reg2 (R126). -/
  | not8RegReg (r1 : Reg8) (r2 : Reg8)
  /-- `001g11rr11iiiiii`, swap dest, reg (R128). -/
  | swap8DestReg (dst : ByteDest) (r : Reg8)
  /-- `001g10rr0iiiiiii`, mov reg, [zp] (R124). -/
  | mov8RegZp (r : Reg8) (zp : BitVec 7)
  /-- `001g10rr1iiiiiii`, mov [zp], reg (R125). -/
  | mov8ZpReg (zp : BitVec 7) (r : Reg8)
  /-- `001g00rr00iiiiii`, mul reg, src8 (R202). -/
  | mul8RegSrc8 (r : Reg8) (src : Src8)
  /-- `001g00rr01iiiiii`, mul reg, imm6 (R203). -/
  | mul8RegImm (r : Reg8) (imm : BitVec 6)
  /-- `001g11rr10iiiiii`, mov dest, reg (R122). -/
  | mov8DestReg (dst : ByteDest) (r : Reg8)
  /-- `000100000iiiiiii`, jump [zp] (R233). -/
  | jumpZp (zp : BitVec 7)
  /-- `000101rrbbbbbbbb`, mov reg, imm8 (R123). -/
  | mov16RegImm (r : Reg16) (imm : BitVec 8)
  /-- `000100rr1iiiiiii`, swap [zp], reg (R129). -/
  | swap16ZpReg (zp : BitVec 7) (r : Reg16)
  /-- `000111rr00iiiiii`, mov reg, src (R121). -/
  | mov16RegSrc (r : Reg16) (src : WordSrc)
  /-- `000111rr0100nnnn`, ror reg, imm4 (R189). -/
  | ror16RegImm (r : Reg16) (imm : BitVec 4)
  /-- `000111rr0101nnnn`, sar reg, imm4 (R187). -/
  | sar16RegImm (r : Reg16) (imm : BitVec 4)
  /-- `000111rr0110nnnn`, shr reg, imm4 (R186). -/
  | shr16RegImm (r : Reg16) (imm : BitVec 4)
  /-- `000111rr0111nnnn`, shl reg, imm4 (R185). -/
  | shl16RegImm (r : Reg16) (imm : BitVec 4)
  /-- `000111rr10000ss0`, not reg1, reg2 (R126). -/
  | not16RegReg (r1 : Reg16) (r2 : Reg16)
  /-- `000111rr11iiiiii`, swap dest, reg (R128). -/
  | swap16DestReg (dst : WordDest) (r : Reg16)
  /-- `000110rr0iiiiiii`, mov reg, [zp] (R124). -/
  | mov16RegZp (r : Reg16) (zp : BitVec 7)
  /-- `000110rr1iiiiiii`, mov [zp], reg (R125). -/
  | mov16ZpReg (zp : BitVec 7) (r : Reg16)
  /-- `000100rr00iiiiii`, mul reg, src8 (R202). -/
  | mul16RegSrc8 (r : Reg16) (src : Src8)
  /-- `000100rr01iiiiii`, mul reg, imm6 (R203). -/
  | mul16RegImm (r : Reg16) (imm : BitVec 6)
  /-- `000111rr10iiiiii`, mov dest, reg (R122). -/
  | mov16DestReg (dst : WordDest) (r : Reg16)
  /-- `00000000bbbbbbbb`, branch always, imm8 (R214). -/
  | branchAlways (imm : BitVec 8)
  /-- `00000001bbbbbbbb`, branch call, imm8 (R215). -/
  | branchCall (imm : BitVec 8)
  /-- `00000010bbbbbbbb`, no instruction (R82). -/
  | unassignedBranch2 (imm : BitVec 8)
  /-- `00000011bbbbbbbb`, no instruction (R82). -/
  | unassignedBranch3 (imm : BitVec 8)
  /-- `00000100bbbbbbbb`, branch z, imm8 (R216). -/
  | branchZ (imm : BitVec 8)
  /-- `00000101bbbbbbbb`, branch nz, imm8 (R217). -/
  | branchNz (imm : BitVec 8)
  /-- `00000110bbbbbbbb`, branch s, imm8 (R218). -/
  | branchS (imm : BitVec 8)
  /-- `00000111bbbbbbbb`, branch ns, imm8 (R219). -/
  | branchNs (imm : BitVec 8)
  /-- `00001000bbbbbbbb`, branch c, imm8 (R220). -/
  | branchC (imm : BitVec 8)
  /-- `00001001bbbbbbbb`, branch nc, imm8 (R221). -/
  | branchNc (imm : BitVec 8)
  /-- `00001010bbbbbbbb`, branch a, imm8 (R222). -/
  | branchA (imm : BitVec 8)
  /-- `00001011bbbbbbbb`, branch na, imm8 (R223). -/
  | branchNa (imm : BitVec 8)
  /-- `00001100bbbbbbbb`, branch v, imm8 (R224). -/
  | branchV (imm : BitVec 8)
  /-- `00001101bbbbbbbb`, branch nv, imm8 (R225). -/
  | branchNv (imm : BitVec 8)
  /-- `00001110bbbbbbbb`, branch g, imm8 (R226). -/
  | branchG (imm : BitVec 8)
  /-- `00001111bbbbbbbb`, branch ng, imm8 (R227). -/
  | branchNg (imm : BitVec 8)
deriving DecidableEq, Repr

end Sys2Proof
end

