-- ==== Sys2Proof/WellFormed.lean ====
section
/-! DEFINITION. Which instructions have words of their own: the checks the spec puts on operands beyond what
their types say (30_encoding.md R68, R73, R80, R87). -/

namespace Sys2Proof

/-- The pair that a register is a half of (R17, R18). -/
def Reg8.pair : Reg8 → Reg16
  | .a | .b => .ba
  | .c | .d => .dc
  | .e | .f => .fe
  | .g | .h => .hg

/-- In `[r16 + zext(r8)]` "r16 and r8 can not overlap": the overlapping codes are `[r16++]` and `[--r16]` (R80). -/
def MemMode.wf : MemMode → Bool
  | .indexed base index => decide (index.pair ≠ base)
  | .postInc _ | .preDec _ | .disp _ _ | .abs _ => true

def ByteSrc.wf : ByteSrc → Bool
  | .mem m => m.wf
  | .reg _ | .flags | .sp | .imm _ | .pop => true

def WordSrc.wf : WordSrc → Bool
  | .mem m => m.wf
  | .reg _ | .ext _ | .sp | .imm _ | .pop => true

def ByteDest.wf : ByteDest → Bool
  | .mem m => m.wf
  | .reg _ | .flags | .sp | .stack => true

def WordDest.wf : WordDest → Bool
  | .mem m => m.wf
  | .reg _ | .sp | .stack => true

def Src8.wf : Src8 → Bool
  | .mem m => m.wf
  | .reg _ | .sp | .imm _ | .pop => true

/-- The destination is not a general register: with one the word is the alternate operation's (R68). -/
def ByteDest.notGeneral : ByteDest → Bool
  | .reg _ => false
  | .flags | .sp | .stack | .mem _ => true

/-- As `ByteDest.notGeneral`, for a pair (R68). -/
def WordDest.notGeneral : WordDest → Bool
  | .reg _ => false
  | .sp | .stack | .mem _ => true

/-- The source is not `[pop]`: `jump [pop]` is the row `ret` (R85, R87). -/
def WordSrc.notPop : WordSrc → Bool
  | .pop => false
  | .reg _ | .ext _ | .sp | .imm _ | .mem _ => true

/-- `mul` cannot have `a`, `b` or `ba` as `reg`: those words are the absolute jumps (R73, R204). -/
def Reg16.mulOk : Reg16 → Bool
  | .ba => false
  | .dc | .fe | .hg => true

/-- An instruction is well formed when some instruction word means it. -/
def Instr.wf : Instr → Bool
  | .add8RegSrc _ src => src.wf
  | .sub8RegSrc _ src => src.wf
  | .adc8RegSrc _ src => src.wf
  | .sbc8RegSrc _ src => src.wf
  | .and8RegSrc _ src => src.wf
  | .or8RegSrc _ src => src.wf
  | .xor8RegSrc _ src => src.wf
  | .cmp8RegSrc _ src => src.wf
  | .add8RegImm _ _ => true
  | .revsub8RegImm _ _ => true
  | .adc8RegImm _ _ => true
  | .revsbc8RegImm _ _ => true
  | .and8RegImm _ _ => true
  | .or8RegImm _ _ => true
  | .xor8RegImm _ _ => true
  | .cmp8RegImm _ _ => true
  | .test8RegSrc _ src => src.wf
  | .neg8RegReg _ _ => true
  | .revsub8RegReg _ _ => true
  | .negc8RegReg _ _ => true
  | .revsbc8RegReg _ _ => true
  | .andNot8RegReg _ _ => true
  | .orNot8RegReg _ _ => true
  | .xorNot8RegReg _ _ => true
  | .ror8RegSrc8 _ src => src.wf
  | .sar8RegSrc8 _ src => src.wf
  | .shr8RegSrc8 _ src => src.wf
  | .shl8RegSrc8 _ src => src.wf
  | .rol8RegSrc8 _ src => src.wf
  | .unassignedShift8Op1 _ _ => true
  | .unassignedShift8Op3 _ _ => true
  | .unassignedShift8Op5 _ _ => true
  | .add8RegZp _ _ => true
  | .sub8RegZp _ _ => true
  | .adc8RegZp _ _ => true
  | .sbc8RegZp _ _ => true
  | .and8RegZp _ _ => true
  | .or8RegZp _ _ => true
  | .xor8RegZp _ _ => true
  | .cmp8RegZp _ _ => true
  | .add8ZpReg _ _ => true
  | .sub8ZpReg _ _ => true
  | .adc8ZpReg _ _ => true
  | .sbc8ZpReg _ _ => true
  | .and8ZpReg _ _ => true
  | .or8ZpReg _ _ => true
  | .xor8ZpReg _ _ => true
  | .test8RegZp _ _ => true
  | .add8DestReg dst _ => dst.wf && dst.notGeneral
  | .sub8DestReg dst _ => dst.wf && dst.notGeneral
  | .adc8DestReg dst _ => dst.wf && dst.notGeneral
  | .sbc8DestReg dst _ => dst.wf && dst.notGeneral
  | .and8DestReg dst _ => dst.wf && dst.notGeneral
  | .or8DestReg dst _ => dst.wf && dst.notGeneral
  | .xor8DestReg dst _ => dst.wf && dst.notGeneral
  | .add16RegSrc _ src => src.wf
  | .sub16RegSrc _ src => src.wf
  | .adc16RegSrc _ src => src.wf
  | .sbc16RegSrc _ src => src.wf
  | .and16RegSrc _ src => src.wf
  | .or16RegSrc _ src => src.wf
  | .xor16RegSrc _ src => src.wf
  | .cmp16RegSrc _ src => src.wf
  | .add16RegImm _ _ => true
  | .revsub16RegImm _ _ => true
  | .adc16RegImm _ _ => true
  | .revsbc16RegImm _ _ => true
  | .and16RegImm _ _ => true
  | .or16RegImm _ _ => true
  | .xor16RegImm _ _ => true
  | .cmp16RegImm _ _ => true
  | .test16RegSrc _ src => src.wf
  | .neg16RegReg _ _ => true
  | .revsub16RegReg _ _ => true
  | .negc16RegReg _ _ => true
  | .revsbc16RegReg _ _ => true
  | .andNot16RegReg _ _ => true
  | .orNot16RegReg _ _ => true
  | .xorNot16RegReg _ _ => true
  | .ror16RegSrc8 _ src => src.wf
  | .sar16RegSrc8 _ src => src.wf
  | .shr16RegSrc8 _ src => src.wf
  | .shl16RegSrc8 _ src => src.wf
  | .rol16RegSrc8 _ src => src.wf
  | .unassignedShift16Op1 _ _ => true
  | .unassignedShift16Op3 _ _ => true
  | .unassignedShift16Op5 _ _ => true
  | .add16RegZp _ _ => true
  | .sub16RegZp _ _ => true
  | .adc16RegZp _ _ => true
  | .sbc16RegZp _ _ => true
  | .and16RegZp _ _ => true
  | .or16RegZp _ _ => true
  | .xor16RegZp _ _ => true
  | .cmp16RegZp _ _ => true
  | .add16ZpReg _ _ => true
  | .sub16ZpReg _ _ => true
  | .adc16ZpReg _ _ => true
  | .sbc16ZpReg _ _ => true
  | .and16ZpReg _ _ => true
  | .or16ZpReg _ _ => true
  | .xor16ZpReg _ _ => true
  | .test16RegZp _ _ => true
  | .add16DestReg dst _ => dst.wf && dst.notGeneral
  | .sub16DestReg dst _ => dst.wf && dst.notGeneral
  | .adc16DestReg dst _ => dst.wf && dst.notGeneral
  | .sbc16DestReg dst _ => dst.wf && dst.notGeneral
  | .and16DestReg dst _ => dst.wf && dst.notGeneral
  | .or16DestReg dst _ => dst.wf && dst.notGeneral
  | .xor16DestReg dst _ => dst.wf && dst.notGeneral
  | .ret => true
  | .jumpSrc src => src.wf && src.notPop
  | .callSrc src => src.wf
  | .unassignedMul _ => true
  | .mov8RegImm _ _ => true
  | .swap8ZpReg _ _ => true
  | .mov8RegSrc _ src => src.wf
  | .ror8RegImm _ _ => true
  | .sar8RegImm _ _ => true
  | .shr8RegImm _ _ => true
  | .shl8RegImm _ _ => true
  | .not8RegReg _ _ => true
  | .swap8DestReg dst _ => dst.wf
  | .mov8RegZp _ _ => true
  | .mov8ZpReg _ _ => true
  | .mul8RegSrc8 r src => r.pair.mulOk && src.wf
  | .mul8RegImm r _ => r.pair.mulOk
  | .mov8DestReg dst _ => dst.wf && dst.notGeneral
  | .jumpZp _ => true
  | .mov16RegImm _ _ => true
  | .swap16ZpReg _ _ => true
  | .mov16RegSrc _ src => src.wf
  | .ror16RegImm _ _ => true
  | .sar16RegImm _ _ => true
  | .shr16RegImm _ _ => true
  | .shl16RegImm _ _ => true
  | .not16RegReg _ _ => true
  | .swap16DestReg dst _ => dst.wf
  | .mov16RegZp _ _ => true
  | .mov16ZpReg _ _ => true
  | .mul16RegSrc8 r src => r.mulOk && src.wf
  | .mul16RegImm r _ => r.mulOk
  | .mov16DestReg dst _ => dst.wf && dst.notGeneral
  | .branchAlways _ => true
  | .branchCall _ => true
  | .unassignedBranch2 _ => true
  | .unassignedBranch3 _ => true
  | .branchZ _ => true
  | .branchNz _ => true
  | .branchS _ => true
  | .branchNs _ => true
  | .branchC _ => true
  | .branchNc _ => true
  | .branchA _ => true
  | .branchNa _ => true
  | .branchV _ => true
  | .branchNv _ => true
  | .branchG _ => true
  | .branchNg _ => true

/-- `Instr.wf` as a proposition. -/
abbrev WellFormed (i : Instr) : Prop := i.wf = true

end Sys2Proof
end

