-- ==== Sys2Proof/Decode.lean ====
section
/-! DEFINITION. Instruction words to instructions and back (30_encoding.md). The decoder is the procedure of
R86, total on any bytes; the encoder after it is written from the field positions of R61 and the operand
codes of R78. The byte order of words is here too (20_memory.md R42). -/

namespace Sys2Proof

/-! ### Bytes and words -/

/-- Bits 7:0 of a word. -/
def loByte (w : Word) : Byte := w.extractLsb' 0 8

/-- Bits 15:8 of a word. -/
def hiByte (w : Word) : Byte := w.extractLsb' 8 8

/-- The word with the given upper and lower halves: `{hi, lo}` (R9). -/
def joinBytes (hi lo : Byte) : Word := hi ++ lo

/-- The 16-bit value whose byte at the lower address is `first` (R42). -/
def wordOfBytes (first second : Byte) : Word :=
  match Config.byteOrder with
  | .little => joinBytes second first
  | .big => joinBytes first second

/-- The bytes of a 16-bit value in memory, the one at the lower address first (R42). -/
def bytesOfWord (w : Word) : Byte × Byte :=
  match Config.byteOrder with
  | .little => (loByte w, hiByte w)
  | .big => (hiByte w, loByte w)

/-! ### Register numbers (R16, R17, R66) -/

/-- The register with a number (R16). -/
def reg8OfNum (n : BitVec 3) : Reg8 :=
  match n.toNat with
  | 0 => .a
  | 1 => .b
  | 2 => .c
  | 3 => .d
  | 4 => .e
  | 5 => .f
  | 6 => .g
  | _ => .h

/-- The pair with a number (R17). -/
def reg16OfNum (n : BitVec 2) : Reg16 :=
  match n.toNat with
  | 0 => .ba
  | 1 => .dc
  | 2 => .fe
  | _ => .hg

/-- A register's number (R16). -/
def Reg8.num : Reg8 → BitVec 3
  | .a => 0
  | .b => 1
  | .c => 2
  | .d => 3
  | .e => 4
  | .f => 5
  | .g => 6
  | .h => 7

/-- A pair's number (R17). -/
def Reg16.num : Reg16 → BitVec 2
  | .ba => 0
  | .dc => 1
  | .fe => 2
  | .hg => 3

/-! ### Decoding the operand field `iiiiii` (R78 to R81) -/

/-- The memory forms, the same in every role (R78). The three patterns with bit 5 set are told apart by
whether the index would be a half of the base (R80). -/
def decodeMem (op : BitVec 6) (imm : Word) : Option MemMode :=
  if op.getLsbD 5 then
    if op.extractLsb' 3 2 = op.extractLsb' 1 2 then
      if op.getLsbD 0 then some (.preDec (reg16OfNum (op.extractLsb' 3 2)))
      else some (.postInc (reg16OfNum (op.extractLsb' 3 2)))
    else some (.indexed (reg16OfNum (op.extractLsb' 3 2)) (reg8OfNum (op.extractLsb' 0 3)))
  else if op.getLsbD 4 then some (.disp (reg16OfNum (op.extractLsb' 2 2)) (op.extractLsb' 0 2))
  else if op = 0b000011 then some (.abs imm)
  else none

/-- The operand code names a general register of an 8-bit instruction: `001rrr` (R68, R86). -/
def isByteReg (op : BitVec 6) : Bool := op.extractLsb' 3 3 == 0b001#3

/-- The operand code names a pair in a 16-bit instruction: `000RR0` (R68, R86). -/
def isWordReg (op : BitVec 6) : Bool := op.extractLsb' 3 3 == 0b000#3 && !op.getLsbD 0

/-- Role SRC with W = 8 (R79). -/
def decodeByteSrc (op : BitVec 6) (imm : Word) : Option ByteSrc :=
  if isByteReg op then some (.reg (reg8OfNum (op.extractLsb' 0 3)))
  else if op = 0b000010 then some .flags
  else if op = 0b000001 then some (.imm imm)
  else if op = 0b000101 then some .pop
  else if op = 0b000111 then some .sp
  else (decodeMem op imm).map .mem

/-- Role SRC with W = 16, and role SRC16 (R79). -/
def decodeWordSrc (op : BitVec 6) (imm : Word) : Option WordSrc :=
  if isByteReg op then some (.ext (reg8OfNum (op.extractLsb' 0 3)))
  else if isWordReg op then some (.reg (reg16OfNum (op.extractLsb' 1 2)))
  else if op = 0b000001 then some (.imm imm)
  else if op = 0b000101 then some .pop
  else if op = 0b000111 then some .sp
  else (decodeMem op imm).map .mem

/-- Roles DEST_W and DEST_RMW with W = 8 (R79). -/
def decodeByteDest (op : BitVec 6) (imm : Word) : Option ByteDest :=
  if isByteReg op then some (.reg (reg8OfNum (op.extractLsb' 0 3)))
  else if op = 0b000010 then some .flags
  else if op = 0b000101 then some .stack
  else if op = 0b000111 then some .sp
  else (decodeMem op imm).map .mem

/-- Roles DEST_W and DEST_RMW with W = 16 (R79). -/
def decodeWordDest (op : BitVec 6) (imm : Word) : Option WordDest :=
  if isWordReg op then some (.reg (reg16OfNum (op.extractLsb' 1 2)))
  else if op = 0b000101 then some .stack
  else if op = 0b000111 then some .sp
  else (decodeMem op imm).map .mem

/-- Role SRC8, at either instruction size (R79). -/
def decodeSrc8 (op : BitVec 6) (imm : Word) : Option Src8 :=
  if isByteReg op then some (.reg (reg8OfNum (op.extractLsb' 0 3)))
  else if op = 0b000001 then some (.imm imm)
  else if op = 0b000101 then some .pop
  else if op = 0b000111 then some .sp
  else (decodeMem op imm).map .mem

/-! ### The rows of each `aaa` column (R67 to R72) -/

/-- `mdz = 100`, 8 bit: the regular operations and `cmp` (R67, R69). -/
def binop8RegSrc (aaa : BitVec 3) (r : Reg8) (src : ByteSrc) : Instr :=
  match aaa.toNat with
  | 0 => .add8RegSrc r src
  | 1 => .sub8RegSrc r src
  | 2 => .adc8RegSrc r src
  | 3 => .sbc8RegSrc r src
  | 4 => .and8RegSrc r src
  | 5 => .or8RegSrc r src
  | 6 => .xor8RegSrc r src
  | _ => .cmp8RegSrc r src

/-- `mdz = 101`, 8 bit: `revsub` and `revsbc` replace `sub` and `sbc` (R70). -/
def binop8RegImm (aaa : BitVec 3) (r : Reg8) (imm : BitVec 6) : Instr :=
  match aaa.toNat with
  | 0 => .add8RegImm r imm
  | 1 => .revsub8RegImm r imm
  | 2 => .adc8RegImm r imm
  | 3 => .revsbc8RegImm r imm
  | 4 => .and8RegImm r imm
  | 5 => .or8RegImm r imm
  | 6 => .xor8RegImm r imm
  | _ => .cmp8RegImm r imm

/-- `mdz = 00x`, 8 bit (R64, R69). -/
def binop8RegZp (aaa : BitVec 3) (r : Reg8) (zp : BitVec 7) : Instr :=
  match aaa.toNat with
  | 0 => .add8RegZp r zp
  | 1 => .sub8RegZp r zp
  | 2 => .adc8RegZp r zp
  | 3 => .sbc8RegZp r zp
  | 4 => .and8RegZp r zp
  | 5 => .or8RegZp r zp
  | 6 => .xor8RegZp r zp
  | _ => .cmp8RegZp r zp

/-- `mdz = 01x`, 8 bit; `aaa = 7` is `test reg, [zp]` (R64, R69). -/
def binop8ZpReg (aaa : BitVec 3) (zp : BitVec 7) (r : Reg8) : Instr :=
  match aaa.toNat with
  | 0 => .add8ZpReg zp r
  | 1 => .sub8ZpReg zp r
  | 2 => .adc8ZpReg zp r
  | 3 => .sbc8ZpReg zp r
  | 4 => .and8ZpReg zp r
  | 5 => .or8ZpReg zp r
  | 6 => .xor8ZpReg zp r
  | _ => .test8RegZp r zp

/-- The alternate operations, 8 bit, `reg1` first (R67, R68). `aaa = 7` has none and is not asked. -/
def alternate8 (aaa : BitVec 3) (r1 r2 : Reg8) : Option Instr :=
  match aaa.toNat with
  | 0 => some (.neg8RegReg r1 r2)
  | 1 => some (.revsub8RegReg r1 r2)
  | 2 => some (.negc8RegReg r1 r2)
  | 3 => some (.revsbc8RegReg r1 r2)
  | 4 => some (.andNot8RegReg r1 r2)
  | 5 => some (.orNot8RegReg r1 r2)
  | 6 => some (.xorNot8RegReg r1 r2)
  | _ => none

/-- `mdz = 110`, 8 bit, the regular operations (R64). `aaa = 7` is `test reg, src` and is not asked. -/
def binop8DestReg (aaa : BitVec 3) (dst : ByteDest) (r : Reg8) : Option Instr :=
  match aaa.toNat with
  | 0 => some (.add8DestReg dst r)
  | 1 => some (.sub8DestReg dst r)
  | 2 => some (.adc8DestReg dst r)
  | 3 => some (.sbc8DestReg dst r)
  | 4 => some (.and8DestReg dst r)
  | 5 => some (.or8DestReg dst r)
  | 6 => some (.xor8DestReg dst r)
  | _ => none

/-- `mdz = 111`, 8 bit: the shifts; `aaa` = 1, 3, 5 are not assigned (R71, R82). -/
def shift8RegSrc8 (aaa : BitVec 3) (r : Reg8) (op : BitVec 6) (imm : Word) : Option Instr :=
  match aaa.toNat with
  | 0 => (decodeSrc8 op imm).map (.ror8RegSrc8 r)
  | 1 => some (.unassignedShift8Op1 r op)
  | 2 => (decodeSrc8 op imm).map (.sar8RegSrc8 r)
  | 3 => some (.unassignedShift8Op3 r op)
  | 4 => (decodeSrc8 op imm).map (.shr8RegSrc8 r)
  | 5 => some (.unassignedShift8Op5 r op)
  | 6 => (decodeSrc8 op imm).map (.shl8RegSrc8 r)
  | _ => (decodeSrc8 op imm).map (.rol8RegSrc8 r)

/-- `shift reg, imm4`, 8 bit: the operation in `iiiiii[5:4]`, the count below it (R72). -/
def shift8RegImm (op : BitVec 6) (r : Reg8) : Instr :=
  match (op.extractLsb' 4 2).toNat with
  | 0 => .ror8RegImm r (op.extractLsb' 0 4)
  | 1 => .sar8RegImm r (op.extractLsb' 0 4)
  | 2 => .shr8RegImm r (op.extractLsb' 0 4)
  | _ => .shl8RegImm r (op.extractLsb' 0 4)

/-- `mdz = 100`, 16 bit: the regular operations and `cmp` (R67, R69). -/
def binop16RegSrc (aaa : BitVec 3) (r : Reg16) (src : WordSrc) : Instr :=
  match aaa.toNat with
  | 0 => .add16RegSrc r src
  | 1 => .sub16RegSrc r src
  | 2 => .adc16RegSrc r src
  | 3 => .sbc16RegSrc r src
  | 4 => .and16RegSrc r src
  | 5 => .or16RegSrc r src
  | 6 => .xor16RegSrc r src
  | _ => .cmp16RegSrc r src

/-- `mdz = 101`, 16 bit: `revsub` and `revsbc` replace `sub` and `sbc` (R70). -/
def binop16RegImm (aaa : BitVec 3) (r : Reg16) (imm : BitVec 6) : Instr :=
  match aaa.toNat with
  | 0 => .add16RegImm r imm
  | 1 => .revsub16RegImm r imm
  | 2 => .adc16RegImm r imm
  | 3 => .revsbc16RegImm r imm
  | 4 => .and16RegImm r imm
  | 5 => .or16RegImm r imm
  | 6 => .xor16RegImm r imm
  | _ => .cmp16RegImm r imm

/-- `mdz = 00x`, 16 bit (R64, R69). -/
def binop16RegZp (aaa : BitVec 3) (r : Reg16) (zp : BitVec 7) : Instr :=
  match aaa.toNat with
  | 0 => .add16RegZp r zp
  | 1 => .sub16RegZp r zp
  | 2 => .adc16RegZp r zp
  | 3 => .sbc16RegZp r zp
  | 4 => .and16RegZp r zp
  | 5 => .or16RegZp r zp
  | 6 => .xor16RegZp r zp
  | _ => .cmp16RegZp r zp

/-- `mdz = 01x`, 16 bit; `aaa = 7` is `test reg, [zp]` (R64, R69). -/
def binop16ZpReg (aaa : BitVec 3) (zp : BitVec 7) (r : Reg16) : Instr :=
  match aaa.toNat with
  | 0 => .add16ZpReg zp r
  | 1 => .sub16ZpReg zp r
  | 2 => .adc16ZpReg zp r
  | 3 => .sbc16ZpReg zp r
  | 4 => .and16ZpReg zp r
  | 5 => .or16ZpReg zp r
  | 6 => .xor16ZpReg zp r
  | _ => .test16RegZp r zp

/-- The alternate operations, 16 bit, `reg1` first (R67, R68). `aaa = 7` has none and is not asked. -/
def alternate16 (aaa : BitVec 3) (r1 r2 : Reg16) : Option Instr :=
  match aaa.toNat with
  | 0 => some (.neg16RegReg r1 r2)
  | 1 => some (.revsub16RegReg r1 r2)
  | 2 => some (.negc16RegReg r1 r2)
  | 3 => some (.revsbc16RegReg r1 r2)
  | 4 => some (.andNot16RegReg r1 r2)
  | 5 => some (.orNot16RegReg r1 r2)
  | 6 => some (.xorNot16RegReg r1 r2)
  | _ => none

/-- `mdz = 110`, 16 bit, the regular operations (R64). `aaa = 7` is `test reg, src` and is not asked. -/
def binop16DestReg (aaa : BitVec 3) (dst : WordDest) (r : Reg16) : Option Instr :=
  match aaa.toNat with
  | 0 => some (.add16DestReg dst r)
  | 1 => some (.sub16DestReg dst r)
  | 2 => some (.adc16DestReg dst r)
  | 3 => some (.sbc16DestReg dst r)
  | 4 => some (.and16DestReg dst r)
  | 5 => some (.or16DestReg dst r)
  | 6 => some (.xor16DestReg dst r)
  | _ => none

/-- `mdz = 111`, 16 bit: the shifts; `aaa` = 1, 3, 5 are not assigned (R71, R82). -/
def shift16RegSrc8 (aaa : BitVec 3) (r : Reg16) (op : BitVec 6) (imm : Word) : Option Instr :=
  match aaa.toNat with
  | 0 => (decodeSrc8 op imm).map (.ror16RegSrc8 r)
  | 1 => some (.unassignedShift16Op1 r op)
  | 2 => (decodeSrc8 op imm).map (.sar16RegSrc8 r)
  | 3 => some (.unassignedShift16Op3 r op)
  | 4 => (decodeSrc8 op imm).map (.shr16RegSrc8 r)
  | 5 => some (.unassignedShift16Op5 r op)
  | 6 => (decodeSrc8 op imm).map (.shl16RegSrc8 r)
  | _ => (decodeSrc8 op imm).map (.rol16RegSrc8 r)

/-- `shift reg, imm4`, 16 bit: the operation in `iiiiii[5:4]`, the count below it (R72). -/
def shift16RegImm (op : BitVec 6) (r : Reg16) : Instr :=
  match (op.extractLsb' 4 2).toNat with
  | 0 => .ror16RegImm r (op.extractLsb' 0 4)
  | 1 => .sar16RegImm r (op.extractLsb' 0 4)
  | 2 => .shr16RegImm r (op.extractLsb' 0 4)
  | _ => .shl16RegImm r (op.extractLsb' 0 4)

/-- Form B: the condition in `cccc`; 2 and 3 are not assigned (R75, R82). -/
def branchOf (cccc : BitVec 4) (imm : BitVec 8) : Instr :=
  match cccc.toNat with
  | 0 => .branchAlways imm
  | 1 => .branchCall imm
  | 2 => .unassignedBranch2 imm
  | 3 => .unassignedBranch3 imm
  | 4 => .branchZ imm
  | 5 => .branchNz imm
  | 6 => .branchS imm
  | 7 => .branchNs imm
  | 8 => .branchC imm
  | 9 => .branchNc imm
  | 10 => .branchA imm
  | 11 => .branchNa imm
  | 12 => .branchV imm
  | 13 => .branchNv imm
  | 14 => .branchG imm
  | _ => .branchNg imm

/-! ### The five major forms (R60, R61, R86) -/

/-- `iiiiii = w[5:0]` (R61). -/
def fieldOp (w : Word) : BitVec 6 := w.extractLsb' 0 6

/-- `aaa = w[13:11]` (R61). -/
def fieldAaa (w : Word) : BitVec 3 := w.extractLsb' 11 3

/-- `imm7 = w[6:0]` (R77). -/
def fieldZp (w : Word) : BitVec 7 := w.extractLsb' 0 7

/-- `imm8 = w[7:0]` (R77). -/
def fieldImm8 (w : Word) : BitVec 8 := w.extractLsb' 0 8

/-- `rr = w[9:8]` (R61). -/
def fieldRr (w : Word) : BitVec 2 := w.extractLsb' 8 2

/-- Form a: 8-bit binops and `shift reg, src8`; `reg` is `r8[{rr, e}]` (R66, R86). -/
def decodeBinop8 (w imm : Word) : Option Instr :=
  let r := reg8OfNum (fieldRr w ++ w.extractLsb' 14 1)
  match w.getLsbD 10, w.getLsbD 7, w.getLsbD 6 with
  | true, false, false => (decodeByteSrc (fieldOp w) imm).map (binop8RegSrc (fieldAaa w) r)
  | true, false, true => some (binop8RegImm (fieldAaa w) r (fieldOp w))
  | true, true, false =>
    if fieldAaa w = 7 then (decodeByteSrc (fieldOp w) imm).map (.test8RegSrc r)
    else if isByteReg (fieldOp w) then alternate8 (fieldAaa w) (reg8OfNum ((fieldOp w).extractLsb' 0 3)) r
    else (decodeByteDest (fieldOp w) imm).bind fun dst => binop8DestReg (fieldAaa w) dst r
  | true, true, true => shift8RegSrc8 (fieldAaa w) r (fieldOp w) imm
  | false, false, _ => some (binop8RegZp (fieldAaa w) r (fieldZp w))
  | false, true, _ => some (binop8ZpReg (fieldAaa w) (fieldZp w) r)

/-- Form A: 16-bit binops and `shift reg, src8`; `reg` is `r16[rr]` (R66, R86). -/
def decodeBinop16 (w imm : Word) : Option Instr :=
  let r := reg16OfNum (fieldRr w)
  match w.getLsbD 10, w.getLsbD 7, w.getLsbD 6 with
  | true, false, false => (decodeWordSrc (fieldOp w) imm).map (binop16RegSrc (fieldAaa w) r)
  | true, false, true => some (binop16RegImm (fieldAaa w) r (fieldOp w))
  | true, true, false =>
    if fieldAaa w = 7 then (decodeWordSrc (fieldOp w) imm).map (.test16RegSrc r)
    else if isWordReg (fieldOp w) then alternate16 (fieldAaa w) (reg16OfNum ((fieldOp w).extractLsb' 1 2)) r
    else (decodeWordDest (fieldOp w) imm).bind fun dst => binop16DestReg (fieldAaa w) dst r
  | true, true, true => shift16RegSrc8 (fieldAaa w) r (fieldOp w) imm
  | false, false, _ => some (binop16RegZp (fieldAaa w) r (fieldZp w))
  | false, true, _ => some (binop16ZpReg (fieldAaa w) (fieldZp w) r)

/-- `m0/M0` with `m = 0`, `d = 0`, 8 bit: `mul` where `rr` is not 0 (R73), else the absolute jumps (R74).
The word of `jump [pop]` is `ret` (R85, R87). -/
def decodeMulJump8 (w imm : Word) : Option Instr :=
  let r := reg8OfNum (fieldRr w ++ w.extractLsb' 12 1)
  if fieldRr w ≠ 0 then
    if w.getLsbD 6 = Config.mulImmBit then some (.mul8RegImm r (fieldOp w))
    else (decodeSrc8 (fieldOp w) imm).map (.mul8RegSrc8 r)
  else if w.getLsbD 12 then some (.unassignedMul (fieldZp w))
  else if w.getLsbD 6 then (decodeWordSrc (fieldOp w) imm).map .callSrc
  else if fieldOp w = 0b000101 then some .ret
  else (decodeWordSrc (fieldOp w) imm).map .jumpSrc

/-- Form m: 8-bit moves and others; `reg` is `r8[{rr, g}]` (R66, R86). -/
def decodeOther8 (w imm : Word) : Option Instr :=
  let r := reg8OfNum (fieldRr w ++ w.extractLsb' 12 1)
  match w.getLsbD 11, w.getLsbD 10, w.getLsbD 7, w.getLsbD 6 with
  | false, true, _, _ => some (.mov8RegImm r (fieldImm8 w))
  | false, false, false, _ => decodeMulJump8 w imm
  | false, false, true, _ => some (.swap8ZpReg (fieldZp w) r)
  | true, true, false, false => (decodeByteSrc (fieldOp w) imm).map (.mov8RegSrc r)
  | true, true, false, true => some (shift8RegImm (fieldOp w) r)
  | true, true, true, false =>
    if isByteReg (fieldOp w) then some (.not8RegReg (reg8OfNum ((fieldOp w).extractLsb' 0 3)) r)
    else (decodeByteDest (fieldOp w) imm).map fun dst => .mov8DestReg dst r
  | true, true, true, true => (decodeByteDest (fieldOp w) imm).map fun dst => .swap8DestReg dst r
  | true, false, false, _ => some (.mov8RegZp r (fieldZp w))
  | true, false, true, _ => some (.mov8ZpReg (fieldZp w) r)

/-- `m0/M0` with `m = 0`, `d = 0`, 16 bit: `mul` where `rr` is not 0 (R73), else `jump [zp]` (R74). -/
def decodeMulJump16 (w imm : Word) : Option Instr :=
  let r := reg16OfNum (fieldRr w)
  if fieldRr w ≠ 0 then
    if w.getLsbD 6 = Config.mulImmBit then some (.mul16RegImm r (fieldOp w))
    else (decodeSrc8 (fieldOp w) imm).map (.mul16RegSrc8 r)
  else some (.jumpZp (fieldZp w))

/-- Form M: 16-bit moves and others; `reg` is `r16[rr]` (R66, R86). -/
def decodeOther16 (w imm : Word) : Option Instr :=
  let r := reg16OfNum (fieldRr w)
  match w.getLsbD 11, w.getLsbD 10, w.getLsbD 7, w.getLsbD 6 with
  | false, true, _, _ => some (.mov16RegImm r (fieldImm8 w))
  | false, false, false, _ => decodeMulJump16 w imm
  | false, false, true, _ => some (.swap16ZpReg (fieldZp w) r)
  | true, true, false, false => (decodeWordSrc (fieldOp w) imm).map (.mov16RegSrc r)
  | true, true, false, true => some (shift16RegImm (fieldOp w) r)
  | true, true, true, false =>
    if isWordReg (fieldOp w) then some (.not16RegReg (reg16OfNum ((fieldOp w).extractLsb' 1 2)) r)
    else (decodeWordDest (fieldOp w) imm).map fun dst => .mov16DestReg dst r
  | true, true, true, true => (decodeWordDest (fieldOp w) imm).map fun dst => .swap16DestReg dst r
  | true, false, false, _ => some (.mov16RegZp r (fieldZp w))
  | true, false, true, _ => some (.mov16ZpReg (fieldZp w) r)

/-- The whole decoder on words: the instruction whose first word is `w`, with `imm` as the word after it,
which only a two-word instruction looks at (R86). -/
def decodeWords (w imm : Word) : Option Instr :=
  if w.getLsbD 15 then decodeBinop8 w imm
  else if w.getLsbD 14 then decodeBinop16 w imm
  else if w.getLsbD 13 then decodeOther8 w imm
  else if w.getLsbD 12 then decodeOther16 w imm
  else some (branchOf (w.extractLsb' 8 4) (fieldImm8 w))

/-! ### Lengths (R62) -/

def MemMode.words : MemMode → Nat
  | .abs _ => 2
  | .indexed _ _ | .postInc _ | .preDec _ | .disp _ _ => 1

def ByteSrc.words : ByteSrc → Nat
  | .imm _ => 2
  | .mem m => m.words
  | .reg _ | .flags | .sp | .pop => 1

def WordSrc.words : WordSrc → Nat
  | .imm _ => 2
  | .mem m => m.words
  | .reg _ | .ext _ | .sp | .pop => 1

def ByteDest.words : ByteDest → Nat
  | .mem m => m.words
  | .reg _ | .flags | .sp | .stack => 1

def WordDest.words : WordDest → Nat
  | .mem m => m.words
  | .reg _ | .sp | .stack => 1

def Src8.words : Src8 → Nat
  | .imm _ => 2
  | .mem m => m.words
  | .reg _ | .sp | .pop => 1

/-- The length `L` in words: 2 exactly when the operand is `imm16` or `[imm16]` (R62). -/
def Instr.words : Instr → Nat
  | .add8RegSrc _ src => src.words
  | .sub8RegSrc _ src => src.words
  | .adc8RegSrc _ src => src.words
  | .sbc8RegSrc _ src => src.words
  | .and8RegSrc _ src => src.words
  | .or8RegSrc _ src => src.words
  | .xor8RegSrc _ src => src.words
  | .cmp8RegSrc _ src => src.words
  | .add8RegImm _ _ => 1
  | .revsub8RegImm _ _ => 1
  | .adc8RegImm _ _ => 1
  | .revsbc8RegImm _ _ => 1
  | .and8RegImm _ _ => 1
  | .or8RegImm _ _ => 1
  | .xor8RegImm _ _ => 1
  | .cmp8RegImm _ _ => 1
  | .test8RegSrc _ src => src.words
  | .neg8RegReg _ _ => 1
  | .revsub8RegReg _ _ => 1
  | .negc8RegReg _ _ => 1
  | .revsbc8RegReg _ _ => 1
  | .andNot8RegReg _ _ => 1
  | .orNot8RegReg _ _ => 1
  | .xorNot8RegReg _ _ => 1
  | .ror8RegSrc8 _ src => src.words
  | .sar8RegSrc8 _ src => src.words
  | .shr8RegSrc8 _ src => src.words
  | .shl8RegSrc8 _ src => src.words
  | .rol8RegSrc8 _ src => src.words
  | .unassignedShift8Op1 _ _ => 1
  | .unassignedShift8Op3 _ _ => 1
  | .unassignedShift8Op5 _ _ => 1
  | .add8RegZp _ _ => 1
  | .sub8RegZp _ _ => 1
  | .adc8RegZp _ _ => 1
  | .sbc8RegZp _ _ => 1
  | .and8RegZp _ _ => 1
  | .or8RegZp _ _ => 1
  | .xor8RegZp _ _ => 1
  | .cmp8RegZp _ _ => 1
  | .add8ZpReg _ _ => 1
  | .sub8ZpReg _ _ => 1
  | .adc8ZpReg _ _ => 1
  | .sbc8ZpReg _ _ => 1
  | .and8ZpReg _ _ => 1
  | .or8ZpReg _ _ => 1
  | .xor8ZpReg _ _ => 1
  | .test8RegZp _ _ => 1
  | .add8DestReg dst _ => dst.words
  | .sub8DestReg dst _ => dst.words
  | .adc8DestReg dst _ => dst.words
  | .sbc8DestReg dst _ => dst.words
  | .and8DestReg dst _ => dst.words
  | .or8DestReg dst _ => dst.words
  | .xor8DestReg dst _ => dst.words
  | .add16RegSrc _ src => src.words
  | .sub16RegSrc _ src => src.words
  | .adc16RegSrc _ src => src.words
  | .sbc16RegSrc _ src => src.words
  | .and16RegSrc _ src => src.words
  | .or16RegSrc _ src => src.words
  | .xor16RegSrc _ src => src.words
  | .cmp16RegSrc _ src => src.words
  | .add16RegImm _ _ => 1
  | .revsub16RegImm _ _ => 1
  | .adc16RegImm _ _ => 1
  | .revsbc16RegImm _ _ => 1
  | .and16RegImm _ _ => 1
  | .or16RegImm _ _ => 1
  | .xor16RegImm _ _ => 1
  | .cmp16RegImm _ _ => 1
  | .test16RegSrc _ src => src.words
  | .neg16RegReg _ _ => 1
  | .revsub16RegReg _ _ => 1
  | .negc16RegReg _ _ => 1
  | .revsbc16RegReg _ _ => 1
  | .andNot16RegReg _ _ => 1
  | .orNot16RegReg _ _ => 1
  | .xorNot16RegReg _ _ => 1
  | .ror16RegSrc8 _ src => src.words
  | .sar16RegSrc8 _ src => src.words
  | .shr16RegSrc8 _ src => src.words
  | .shl16RegSrc8 _ src => src.words
  | .rol16RegSrc8 _ src => src.words
  | .unassignedShift16Op1 _ _ => 1
  | .unassignedShift16Op3 _ _ => 1
  | .unassignedShift16Op5 _ _ => 1
  | .add16RegZp _ _ => 1
  | .sub16RegZp _ _ => 1
  | .adc16RegZp _ _ => 1
  | .sbc16RegZp _ _ => 1
  | .and16RegZp _ _ => 1
  | .or16RegZp _ _ => 1
  | .xor16RegZp _ _ => 1
  | .cmp16RegZp _ _ => 1
  | .add16ZpReg _ _ => 1
  | .sub16ZpReg _ _ => 1
  | .adc16ZpReg _ _ => 1
  | .sbc16ZpReg _ _ => 1
  | .and16ZpReg _ _ => 1
  | .or16ZpReg _ _ => 1
  | .xor16ZpReg _ _ => 1
  | .test16RegZp _ _ => 1
  | .add16DestReg dst _ => dst.words
  | .sub16DestReg dst _ => dst.words
  | .adc16DestReg dst _ => dst.words
  | .sbc16DestReg dst _ => dst.words
  | .and16DestReg dst _ => dst.words
  | .or16DestReg dst _ => dst.words
  | .xor16DestReg dst _ => dst.words
  | .ret => 1
  | .jumpSrc src => src.words
  | .callSrc src => src.words
  | .unassignedMul _ => 1
  | .mov8RegImm _ _ => 1
  | .swap8ZpReg _ _ => 1
  | .mov8RegSrc _ src => src.words
  | .ror8RegImm _ _ => 1
  | .sar8RegImm _ _ => 1
  | .shr8RegImm _ _ => 1
  | .shl8RegImm _ _ => 1
  | .not8RegReg _ _ => 1
  | .swap8DestReg dst _ => dst.words
  | .mov8RegZp _ _ => 1
  | .mov8ZpReg _ _ => 1
  | .mul8RegSrc8 _ src => src.words
  | .mul8RegImm _ _ => 1
  | .mov8DestReg dst _ => dst.words
  | .jumpZp _ => 1
  | .mov16RegImm _ _ => 1
  | .swap16ZpReg _ _ => 1
  | .mov16RegSrc _ src => src.words
  | .ror16RegImm _ _ => 1
  | .sar16RegImm _ _ => 1
  | .shr16RegImm _ _ => 1
  | .shl16RegImm _ _ => 1
  | .not16RegReg _ _ => 1
  | .swap16DestReg dst _ => dst.words
  | .mov16RegZp _ _ => 1
  | .mov16ZpReg _ _ => 1
  | .mul16RegSrc8 _ src => src.words
  | .mul16RegImm _ _ => 1
  | .mov16DestReg dst _ => dst.words
  | .branchAlways _ => 1
  | .branchCall _ => 1
  | .unassignedBranch2 _ => 1
  | .unassignedBranch3 _ => 1
  | .branchZ _ => 1
  | .branchNz _ => 1
  | .branchS _ => 1
  | .branchNs _ => 1
  | .branchC _ => 1
  | .branchNc _ => 1
  | .branchA _ => 1
  | .branchNa _ => 1
  | .branchV _ => 1
  | .branchNv _ => 1
  | .branchG _ => 1
  | .branchNg _ => 1

/-! ### Decoding bytes -/

/-- Why some bytes are not an instruction. -/
inductive DecodeRefusal where
  /-- The operand code is not assigned for its role and size (R79, R82). -/
  | unassignedOperand
  /-- There are fewer bytes than the instruction has. -/
  | truncated
deriving DecidableEq, Repr

/-- The instruction at the head of some bytes, and the bytes after it. The first word alone tells the length (R62). -/
def decode : List Byte → Except DecodeRefusal (Instr × List Byte)
  | b0 :: b1 :: rest =>
    match decodeWords (wordOfBytes b0 b1) 0 with
    | none => .error .unassignedOperand
    | some i =>
      if i.words = 1 then .ok (i, rest)
      else
        match rest with
        | b2 :: b3 :: rest' =>
          match decodeWords (wordOfBytes b0 b1) (wordOfBytes b2 b3) with
          | none => .error .unassignedOperand
          | some j => .ok (j, rest')
        | [] | [_] => .error .truncated
  | [] | [_] => .error .truncated

/-- The first and second word of an instruction whose bits are `w`, bit 0 the lowest bit of the first word;
bits from `nbits` on are 0. -/
def tableWords (nbits w : Nat) : Word × Word :=
  (BitVec.ofNat 16 (w % 2 ^ nbits), BitVec.ofNat 16 ((w % 2 ^ nbits) / 2 ^ 16))

/-- The bytes of two words as the hardware stores them, lowest address first. -/
def bytesOfWords (w0 w1 : Word) : List Byte :=
  [(bytesOfWord w0).1, (bytesOfWord w0).2, (bytesOfWord w1).1, (bytesOfWord w1).2]

/-- What the decoder reads from an instruction whose bits are numbered as spec/opcode_table.json numbers them. -/
def decodeTableWord (nbits w : Nat) : Option Instr :=
  match decode (bytesOfWords (tableWords nbits w).1 (tableWords nbits w).2) with
  | .ok (i, _) => some i
  | .error _ => none

/-! ### The encoder (R61, R78) -/

/-- `iiiiii` of a memory form (R78). -/
def MemMode.code : MemMode → BitVec 6
  | .indexed base index => 1#1 ++ base.num ++ index.num
  | .postInc ptr => 1#1 ++ ptr.num ++ ptr.num ++ 0#1
  | .preDec ptr => 1#1 ++ ptr.num ++ ptr.num ++ 1#1
  | .disp base imm2 => 0b01#2 ++ base.num ++ imm2
  | .abs _ => 0b000011

/-- The immediate word of a memory form, 0 where there is none. -/
def MemMode.immWord : MemMode → Word
  | .abs addr => addr
  | .indexed _ _ | .postInc _ | .preDec _ | .disp _ _ => 0

def ByteSrc.code : ByteSrc → BitVec 6
  | .reg r => 0b001#3 ++ r.num
  | .flags => 0b000010
  | .sp => 0b000111
  | .imm _ => 0b000001
  | .pop => 0b000101
  | .mem m => m.code

def ByteSrc.immWord : ByteSrc → Word
  | .imm v => v
  | .mem m => m.immWord
  | .reg _ | .flags | .sp | .pop => 0

def WordSrc.code : WordSrc → BitVec 6
  | .reg k => 0b000#3 ++ k.num ++ 0#1
  | .ext r => 0b001#3 ++ r.num
  | .sp => 0b000111
  | .imm _ => 0b000001
  | .pop => 0b000101
  | .mem m => m.code

def WordSrc.immWord : WordSrc → Word
  | .imm v => v
  | .mem m => m.immWord
  | .reg _ | .ext _ | .sp | .pop => 0

def ByteDest.code : ByteDest → BitVec 6
  | .reg r => 0b001#3 ++ r.num
  | .flags => 0b000010
  | .sp => 0b000111
  | .stack => 0b000101
  | .mem m => m.code

def ByteDest.immWord : ByteDest → Word
  | .mem m => m.immWord
  | .reg _ | .flags | .sp | .stack => 0

def WordDest.code : WordDest → BitVec 6
  | .reg k => 0b000#3 ++ k.num ++ 0#1
  | .sp => 0b000111
  | .stack => 0b000101
  | .mem m => m.code

def WordDest.immWord : WordDest → Word
  | .mem m => m.immWord
  | .reg _ | .sp | .stack => 0

def Src8.code : Src8 → BitVec 6
  | .reg r => 0b001#3 ++ r.num
  | .sp => 0b000111
  | .imm _ => 0b000001
  | .pop => 0b000101
  | .mem m => m.code

def Src8.immWord : Src8 → Word
  | .imm v => v
  | .mem m => m.immWord
  | .reg _ | .sp | .pop => 0

/-- `rr`, the upper two bits of a register's number (R66). -/
def Reg8.rr (r : Reg8) : BitVec 2 := r.num.extractLsb' 1 2

/-- `e` or `g`, the lowest bit of a register's number (R66). -/
def Reg8.low (r : Reg8) : BitVec 1 := r.num.extractLsb' 0 1

/-- Form a with `m` set: `1eaaa1rrdziiiiii`. -/
def wordA8 (aaa : BitVec 3) (r : Reg8) (dz : BitVec 2) (op : BitVec 6) : Word :=
  1#1 ++ r.low ++ aaa ++ 1#1 ++ r.rr ++ dz ++ op

/-- Form a with `m` clear: `1eaaa0rrdiiiiiii`. -/
def wordA8Zp (aaa : BitVec 3) (r : Reg8) (d : BitVec 1) (zp : BitVec 7) : Word :=
  1#1 ++ r.low ++ aaa ++ 0#1 ++ r.rr ++ d ++ zp

/-- Form A with `m` set: `01aaa1rrdziiiiii`. -/
def wordA16 (aaa : BitVec 3) (r : Reg16) (dz : BitVec 2) (op : BitVec 6) : Word :=
  0b01#2 ++ aaa ++ 1#1 ++ r.num ++ dz ++ op

/-- Form A with `m` clear: `01aaa0rrdiiiiiii`. -/
def wordA16Zp (aaa : BitVec 3) (r : Reg16) (d : BitVec 1) (zp : BitVec 7) : Word :=
  0b01#2 ++ aaa ++ 0#1 ++ r.num ++ d ++ zp

/-- Form m: `001gomrrbbbbbbbb`, with `d`, `z` and `iiiiii` as one field. -/
def wordM8 (o m : BitVec 1) (r : Reg8) (low : BitVec 8) : Word :=
  0b001#3 ++ r.low ++ o ++ m ++ r.rr ++ low

/-- Form M: `0001omrrbbbbbbbb`, with `d`, `z` and `iiiiii` as one field. -/
def wordM16 (o m : BitVec 1) (r : Reg16) (low : BitVec 8) : Word :=
  0b0001#4 ++ o ++ m ++ r.num ++ low

/-- `MUL_IMM_SELECT` as bit `z` of `mul reg, imm6` (R73). -/
def mulImmZ : BitVec 1 := BitVec.ofBool Config.mulImmBit

/-- The first word of an instruction. -/
def encodeWord : Instr → Word
  | .add8RegSrc r src => wordA8 0b000#3 r 0b00#2 src.code
  | .sub8RegSrc r src => wordA8 0b001#3 r 0b00#2 src.code
  | .adc8RegSrc r src => wordA8 0b010#3 r 0b00#2 src.code
  | .sbc8RegSrc r src => wordA8 0b011#3 r 0b00#2 src.code
  | .and8RegSrc r src => wordA8 0b100#3 r 0b00#2 src.code
  | .or8RegSrc r src => wordA8 0b101#3 r 0b00#2 src.code
  | .xor8RegSrc r src => wordA8 0b110#3 r 0b00#2 src.code
  | .cmp8RegSrc r src => wordA8 0b111#3 r 0b00#2 src.code
  | .add8RegImm r imm => wordA8 0b000#3 r 0b01#2 imm
  | .revsub8RegImm r imm => wordA8 0b001#3 r 0b01#2 imm
  | .adc8RegImm r imm => wordA8 0b010#3 r 0b01#2 imm
  | .revsbc8RegImm r imm => wordA8 0b011#3 r 0b01#2 imm
  | .and8RegImm r imm => wordA8 0b100#3 r 0b01#2 imm
  | .or8RegImm r imm => wordA8 0b101#3 r 0b01#2 imm
  | .xor8RegImm r imm => wordA8 0b110#3 r 0b01#2 imm
  | .cmp8RegImm r imm => wordA8 0b111#3 r 0b01#2 imm
  | .test8RegSrc r src => wordA8 0b111#3 r 0b10#2 src.code
  | .neg8RegReg r1 r2 => wordA8 0b000#3 r2 0b10#2 (0b001#3 ++ r1.num)
  | .revsub8RegReg r1 r2 => wordA8 0b001#3 r2 0b10#2 (0b001#3 ++ r1.num)
  | .negc8RegReg r1 r2 => wordA8 0b010#3 r2 0b10#2 (0b001#3 ++ r1.num)
  | .revsbc8RegReg r1 r2 => wordA8 0b011#3 r2 0b10#2 (0b001#3 ++ r1.num)
  | .andNot8RegReg r1 r2 => wordA8 0b100#3 r2 0b10#2 (0b001#3 ++ r1.num)
  | .orNot8RegReg r1 r2 => wordA8 0b101#3 r2 0b10#2 (0b001#3 ++ r1.num)
  | .xorNot8RegReg r1 r2 => wordA8 0b110#3 r2 0b10#2 (0b001#3 ++ r1.num)
  | .ror8RegSrc8 r src => wordA8 0b000#3 r 0b11#2 src.code
  | .sar8RegSrc8 r src => wordA8 0b010#3 r 0b11#2 src.code
  | .shr8RegSrc8 r src => wordA8 0b100#3 r 0b11#2 src.code
  | .shl8RegSrc8 r src => wordA8 0b110#3 r 0b11#2 src.code
  | .rol8RegSrc8 r src => wordA8 0b111#3 r 0b11#2 src.code
  | .unassignedShift8Op1 r code => wordA8 0b001#3 r 0b11#2 code
  | .unassignedShift8Op3 r code => wordA8 0b011#3 r 0b11#2 code
  | .unassignedShift8Op5 r code => wordA8 0b101#3 r 0b11#2 code
  | .add8RegZp r zp => wordA8Zp 0b000#3 r 0b0#1 zp
  | .sub8RegZp r zp => wordA8Zp 0b001#3 r 0b0#1 zp
  | .adc8RegZp r zp => wordA8Zp 0b010#3 r 0b0#1 zp
  | .sbc8RegZp r zp => wordA8Zp 0b011#3 r 0b0#1 zp
  | .and8RegZp r zp => wordA8Zp 0b100#3 r 0b0#1 zp
  | .or8RegZp r zp => wordA8Zp 0b101#3 r 0b0#1 zp
  | .xor8RegZp r zp => wordA8Zp 0b110#3 r 0b0#1 zp
  | .cmp8RegZp r zp => wordA8Zp 0b111#3 r 0b0#1 zp
  | .add8ZpReg zp r => wordA8Zp 0b000#3 r 0b1#1 zp
  | .sub8ZpReg zp r => wordA8Zp 0b001#3 r 0b1#1 zp
  | .adc8ZpReg zp r => wordA8Zp 0b010#3 r 0b1#1 zp
  | .sbc8ZpReg zp r => wordA8Zp 0b011#3 r 0b1#1 zp
  | .and8ZpReg zp r => wordA8Zp 0b100#3 r 0b1#1 zp
  | .or8ZpReg zp r => wordA8Zp 0b101#3 r 0b1#1 zp
  | .xor8ZpReg zp r => wordA8Zp 0b110#3 r 0b1#1 zp
  | .test8RegZp r zp => wordA8Zp 0b111#3 r 0b1#1 zp
  | .add8DestReg dst r => wordA8 0b000#3 r 0b10#2 dst.code
  | .sub8DestReg dst r => wordA8 0b001#3 r 0b10#2 dst.code
  | .adc8DestReg dst r => wordA8 0b010#3 r 0b10#2 dst.code
  | .sbc8DestReg dst r => wordA8 0b011#3 r 0b10#2 dst.code
  | .and8DestReg dst r => wordA8 0b100#3 r 0b10#2 dst.code
  | .or8DestReg dst r => wordA8 0b101#3 r 0b10#2 dst.code
  | .xor8DestReg dst r => wordA8 0b110#3 r 0b10#2 dst.code
  | .add16RegSrc r src => wordA16 0b000#3 r 0b00#2 src.code
  | .sub16RegSrc r src => wordA16 0b001#3 r 0b00#2 src.code
  | .adc16RegSrc r src => wordA16 0b010#3 r 0b00#2 src.code
  | .sbc16RegSrc r src => wordA16 0b011#3 r 0b00#2 src.code
  | .and16RegSrc r src => wordA16 0b100#3 r 0b00#2 src.code
  | .or16RegSrc r src => wordA16 0b101#3 r 0b00#2 src.code
  | .xor16RegSrc r src => wordA16 0b110#3 r 0b00#2 src.code
  | .cmp16RegSrc r src => wordA16 0b111#3 r 0b00#2 src.code
  | .add16RegImm r imm => wordA16 0b000#3 r 0b01#2 imm
  | .revsub16RegImm r imm => wordA16 0b001#3 r 0b01#2 imm
  | .adc16RegImm r imm => wordA16 0b010#3 r 0b01#2 imm
  | .revsbc16RegImm r imm => wordA16 0b011#3 r 0b01#2 imm
  | .and16RegImm r imm => wordA16 0b100#3 r 0b01#2 imm
  | .or16RegImm r imm => wordA16 0b101#3 r 0b01#2 imm
  | .xor16RegImm r imm => wordA16 0b110#3 r 0b01#2 imm
  | .cmp16RegImm r imm => wordA16 0b111#3 r 0b01#2 imm
  | .test16RegSrc r src => wordA16 0b111#3 r 0b10#2 src.code
  | .neg16RegReg r1 r2 => wordA16 0b000#3 r2 0b10#2 (0b000#3 ++ r1.num ++ 0#1)
  | .revsub16RegReg r1 r2 => wordA16 0b001#3 r2 0b10#2 (0b000#3 ++ r1.num ++ 0#1)
  | .negc16RegReg r1 r2 => wordA16 0b010#3 r2 0b10#2 (0b000#3 ++ r1.num ++ 0#1)
  | .revsbc16RegReg r1 r2 => wordA16 0b011#3 r2 0b10#2 (0b000#3 ++ r1.num ++ 0#1)
  | .andNot16RegReg r1 r2 => wordA16 0b100#3 r2 0b10#2 (0b000#3 ++ r1.num ++ 0#1)
  | .orNot16RegReg r1 r2 => wordA16 0b101#3 r2 0b10#2 (0b000#3 ++ r1.num ++ 0#1)
  | .xorNot16RegReg r1 r2 => wordA16 0b110#3 r2 0b10#2 (0b000#3 ++ r1.num ++ 0#1)
  | .ror16RegSrc8 r src => wordA16 0b000#3 r 0b11#2 src.code
  | .sar16RegSrc8 r src => wordA16 0b010#3 r 0b11#2 src.code
  | .shr16RegSrc8 r src => wordA16 0b100#3 r 0b11#2 src.code
  | .shl16RegSrc8 r src => wordA16 0b110#3 r 0b11#2 src.code
  | .rol16RegSrc8 r src => wordA16 0b111#3 r 0b11#2 src.code
  | .unassignedShift16Op1 r code => wordA16 0b001#3 r 0b11#2 code
  | .unassignedShift16Op3 r code => wordA16 0b011#3 r 0b11#2 code
  | .unassignedShift16Op5 r code => wordA16 0b101#3 r 0b11#2 code
  | .add16RegZp r zp => wordA16Zp 0b000#3 r 0b0#1 zp
  | .sub16RegZp r zp => wordA16Zp 0b001#3 r 0b0#1 zp
  | .adc16RegZp r zp => wordA16Zp 0b010#3 r 0b0#1 zp
  | .sbc16RegZp r zp => wordA16Zp 0b011#3 r 0b0#1 zp
  | .and16RegZp r zp => wordA16Zp 0b100#3 r 0b0#1 zp
  | .or16RegZp r zp => wordA16Zp 0b101#3 r 0b0#1 zp
  | .xor16RegZp r zp => wordA16Zp 0b110#3 r 0b0#1 zp
  | .cmp16RegZp r zp => wordA16Zp 0b111#3 r 0b0#1 zp
  | .add16ZpReg zp r => wordA16Zp 0b000#3 r 0b1#1 zp
  | .sub16ZpReg zp r => wordA16Zp 0b001#3 r 0b1#1 zp
  | .adc16ZpReg zp r => wordA16Zp 0b010#3 r 0b1#1 zp
  | .sbc16ZpReg zp r => wordA16Zp 0b011#3 r 0b1#1 zp
  | .and16ZpReg zp r => wordA16Zp 0b100#3 r 0b1#1 zp
  | .or16ZpReg zp r => wordA16Zp 0b101#3 r 0b1#1 zp
  | .xor16ZpReg zp r => wordA16Zp 0b110#3 r 0b1#1 zp
  | .test16RegZp r zp => wordA16Zp 0b111#3 r 0b1#1 zp
  | .add16DestReg dst r => wordA16 0b000#3 r 0b10#2 dst.code
  | .sub16DestReg dst r => wordA16 0b001#3 r 0b10#2 dst.code
  | .adc16DestReg dst r => wordA16 0b010#3 r 0b10#2 dst.code
  | .sbc16DestReg dst r => wordA16 0b011#3 r 0b10#2 dst.code
  | .and16DestReg dst r => wordA16 0b100#3 r 0b10#2 dst.code
  | .or16DestReg dst r => wordA16 0b101#3 r 0b10#2 dst.code
  | .xor16DestReg dst r => wordA16 0b110#3 r 0b10#2 dst.code
  | .ret => 0x2005
  | .jumpSrc src => 0b0010000000#10 ++ src.code
  | .callSrc src => 0b0010000001#10 ++ src.code
  | .unassignedMul data => 0b001100000#9 ++ data
  | .mov8RegImm r imm => wordM8 0b0#1 0b1#1 r imm
  | .swap8ZpReg zp r => wordM8 0b0#1 0b0#1 r (0b1#1 ++ zp)
  | .mov8RegSrc r src => wordM8 0b1#1 0b1#1 r (0b00#2 ++ src.code)
  | .ror8RegImm r imm => wordM8 0b1#1 0b1#1 r (0b0100#4 ++ imm)
  | .sar8RegImm r imm => wordM8 0b1#1 0b1#1 r (0b0101#4 ++ imm)
  | .shr8RegImm r imm => wordM8 0b1#1 0b1#1 r (0b0110#4 ++ imm)
  | .shl8RegImm r imm => wordM8 0b1#1 0b1#1 r (0b0111#4 ++ imm)
  | .not8RegReg r1 r2 => wordM8 0b1#1 0b1#1 r2 (0b10001#5 ++ r1.num)
  | .swap8DestReg dst r => wordM8 0b1#1 0b1#1 r (0b11#2 ++ dst.code)
  | .mov8RegZp r zp => wordM8 0b1#1 0b0#1 r (0b0#1 ++ zp)
  | .mov8ZpReg zp r => wordM8 0b1#1 0b0#1 r (0b1#1 ++ zp)
  | .mul8RegSrc8 r src => wordM8 0b0#1 0b0#1 r (0#1 ++ ~~~mulImmZ ++ src.code)
  | .mul8RegImm r imm => wordM8 0b0#1 0b0#1 r (0#1 ++ mulImmZ ++ imm)
  | .mov8DestReg dst r => wordM8 0b1#1 0b1#1 r (0b10#2 ++ dst.code)
  | .jumpZp zp => 0b000100000#9 ++ zp
  | .mov16RegImm r imm => wordM16 0b0#1 0b1#1 r imm
  | .swap16ZpReg zp r => wordM16 0b0#1 0b0#1 r (0b1#1 ++ zp)
  | .mov16RegSrc r src => wordM16 0b1#1 0b1#1 r (0b00#2 ++ src.code)
  | .ror16RegImm r imm => wordM16 0b1#1 0b1#1 r (0b0100#4 ++ imm)
  | .sar16RegImm r imm => wordM16 0b1#1 0b1#1 r (0b0101#4 ++ imm)
  | .shr16RegImm r imm => wordM16 0b1#1 0b1#1 r (0b0110#4 ++ imm)
  | .shl16RegImm r imm => wordM16 0b1#1 0b1#1 r (0b0111#4 ++ imm)
  | .not16RegReg r1 r2 => wordM16 0b1#1 0b1#1 r2 (0b10000#5 ++ r1.num ++ 0#1)
  | .swap16DestReg dst r => wordM16 0b1#1 0b1#1 r (0b11#2 ++ dst.code)
  | .mov16RegZp r zp => wordM16 0b1#1 0b0#1 r (0b0#1 ++ zp)
  | .mov16ZpReg zp r => wordM16 0b1#1 0b0#1 r (0b1#1 ++ zp)
  | .mul16RegSrc8 r src => wordM16 0b0#1 0b0#1 r (0#1 ++ ~~~mulImmZ ++ src.code)
  | .mul16RegImm r imm => wordM16 0b0#1 0b0#1 r (0#1 ++ mulImmZ ++ imm)
  | .mov16DestReg dst r => wordM16 0b1#1 0b1#1 r (0b10#2 ++ dst.code)
  | .branchAlways imm => 0b0000#4 ++ 0b0000#4 ++ imm
  | .branchCall imm => 0b0000#4 ++ 0b0001#4 ++ imm
  | .unassignedBranch2 imm => 0b0000#4 ++ 0b0010#4 ++ imm
  | .unassignedBranch3 imm => 0b0000#4 ++ 0b0011#4 ++ imm
  | .branchZ imm => 0b0000#4 ++ 0b0100#4 ++ imm
  | .branchNz imm => 0b0000#4 ++ 0b0101#4 ++ imm
  | .branchS imm => 0b0000#4 ++ 0b0110#4 ++ imm
  | .branchNs imm => 0b0000#4 ++ 0b0111#4 ++ imm
  | .branchC imm => 0b0000#4 ++ 0b1000#4 ++ imm
  | .branchNc imm => 0b0000#4 ++ 0b1001#4 ++ imm
  | .branchA imm => 0b0000#4 ++ 0b1010#4 ++ imm
  | .branchNa imm => 0b0000#4 ++ 0b1011#4 ++ imm
  | .branchV imm => 0b0000#4 ++ 0b1100#4 ++ imm
  | .branchNv imm => 0b0000#4 ++ 0b1101#4 ++ imm
  | .branchG imm => 0b0000#4 ++ 0b1110#4 ++ imm
  | .branchNg imm => 0b0000#4 ++ 0b1111#4 ++ imm

/-- The immediate word of an instruction, 0 where it has none (R62). -/
def encodeImm : Instr → Word
  | .add8RegSrc _ src => src.immWord
  | .sub8RegSrc _ src => src.immWord
  | .adc8RegSrc _ src => src.immWord
  | .sbc8RegSrc _ src => src.immWord
  | .and8RegSrc _ src => src.immWord
  | .or8RegSrc _ src => src.immWord
  | .xor8RegSrc _ src => src.immWord
  | .cmp8RegSrc _ src => src.immWord
  | .add8RegImm _ _ => 0
  | .revsub8RegImm _ _ => 0
  | .adc8RegImm _ _ => 0
  | .revsbc8RegImm _ _ => 0
  | .and8RegImm _ _ => 0
  | .or8RegImm _ _ => 0
  | .xor8RegImm _ _ => 0
  | .cmp8RegImm _ _ => 0
  | .test8RegSrc _ src => src.immWord
  | .neg8RegReg _ _ => 0
  | .revsub8RegReg _ _ => 0
  | .negc8RegReg _ _ => 0
  | .revsbc8RegReg _ _ => 0
  | .andNot8RegReg _ _ => 0
  | .orNot8RegReg _ _ => 0
  | .xorNot8RegReg _ _ => 0
  | .ror8RegSrc8 _ src => src.immWord
  | .sar8RegSrc8 _ src => src.immWord
  | .shr8RegSrc8 _ src => src.immWord
  | .shl8RegSrc8 _ src => src.immWord
  | .rol8RegSrc8 _ src => src.immWord
  | .unassignedShift8Op1 _ _ => 0
  | .unassignedShift8Op3 _ _ => 0
  | .unassignedShift8Op5 _ _ => 0
  | .add8RegZp _ _ => 0
  | .sub8RegZp _ _ => 0
  | .adc8RegZp _ _ => 0
  | .sbc8RegZp _ _ => 0
  | .and8RegZp _ _ => 0
  | .or8RegZp _ _ => 0
  | .xor8RegZp _ _ => 0
  | .cmp8RegZp _ _ => 0
  | .add8ZpReg _ _ => 0
  | .sub8ZpReg _ _ => 0
  | .adc8ZpReg _ _ => 0
  | .sbc8ZpReg _ _ => 0
  | .and8ZpReg _ _ => 0
  | .or8ZpReg _ _ => 0
  | .xor8ZpReg _ _ => 0
  | .test8RegZp _ _ => 0
  | .add8DestReg dst _ => dst.immWord
  | .sub8DestReg dst _ => dst.immWord
  | .adc8DestReg dst _ => dst.immWord
  | .sbc8DestReg dst _ => dst.immWord
  | .and8DestReg dst _ => dst.immWord
  | .or8DestReg dst _ => dst.immWord
  | .xor8DestReg dst _ => dst.immWord
  | .add16RegSrc _ src => src.immWord
  | .sub16RegSrc _ src => src.immWord
  | .adc16RegSrc _ src => src.immWord
  | .sbc16RegSrc _ src => src.immWord
  | .and16RegSrc _ src => src.immWord
  | .or16RegSrc _ src => src.immWord
  | .xor16RegSrc _ src => src.immWord
  | .cmp16RegSrc _ src => src.immWord
  | .add16RegImm _ _ => 0
  | .revsub16RegImm _ _ => 0
  | .adc16RegImm _ _ => 0
  | .revsbc16RegImm _ _ => 0
  | .and16RegImm _ _ => 0
  | .or16RegImm _ _ => 0
  | .xor16RegImm _ _ => 0
  | .cmp16RegImm _ _ => 0
  | .test16RegSrc _ src => src.immWord
  | .neg16RegReg _ _ => 0
  | .revsub16RegReg _ _ => 0
  | .negc16RegReg _ _ => 0
  | .revsbc16RegReg _ _ => 0
  | .andNot16RegReg _ _ => 0
  | .orNot16RegReg _ _ => 0
  | .xorNot16RegReg _ _ => 0
  | .ror16RegSrc8 _ src => src.immWord
  | .sar16RegSrc8 _ src => src.immWord
  | .shr16RegSrc8 _ src => src.immWord
  | .shl16RegSrc8 _ src => src.immWord
  | .rol16RegSrc8 _ src => src.immWord
  | .unassignedShift16Op1 _ _ => 0
  | .unassignedShift16Op3 _ _ => 0
  | .unassignedShift16Op5 _ _ => 0
  | .add16RegZp _ _ => 0
  | .sub16RegZp _ _ => 0
  | .adc16RegZp _ _ => 0
  | .sbc16RegZp _ _ => 0
  | .and16RegZp _ _ => 0
  | .or16RegZp _ _ => 0
  | .xor16RegZp _ _ => 0
  | .cmp16RegZp _ _ => 0
  | .add16ZpReg _ _ => 0
  | .sub16ZpReg _ _ => 0
  | .adc16ZpReg _ _ => 0
  | .sbc16ZpReg _ _ => 0
  | .and16ZpReg _ _ => 0
  | .or16ZpReg _ _ => 0
  | .xor16ZpReg _ _ => 0
  | .test16RegZp _ _ => 0
  | .add16DestReg dst _ => dst.immWord
  | .sub16DestReg dst _ => dst.immWord
  | .adc16DestReg dst _ => dst.immWord
  | .sbc16DestReg dst _ => dst.immWord
  | .and16DestReg dst _ => dst.immWord
  | .or16DestReg dst _ => dst.immWord
  | .xor16DestReg dst _ => dst.immWord
  | .ret => 0
  | .jumpSrc src => src.immWord
  | .callSrc src => src.immWord
  | .unassignedMul _ => 0
  | .mov8RegImm _ _ => 0
  | .swap8ZpReg _ _ => 0
  | .mov8RegSrc _ src => src.immWord
  | .ror8RegImm _ _ => 0
  | .sar8RegImm _ _ => 0
  | .shr8RegImm _ _ => 0
  | .shl8RegImm _ _ => 0
  | .not8RegReg _ _ => 0
  | .swap8DestReg dst _ => dst.immWord
  | .mov8RegZp _ _ => 0
  | .mov8ZpReg _ _ => 0
  | .mul8RegSrc8 _ src => src.immWord
  | .mul8RegImm _ _ => 0
  | .mov8DestReg dst _ => dst.immWord
  | .jumpZp _ => 0
  | .mov16RegImm _ _ => 0
  | .swap16ZpReg _ _ => 0
  | .mov16RegSrc _ src => src.immWord
  | .ror16RegImm _ _ => 0
  | .sar16RegImm _ _ => 0
  | .shr16RegImm _ _ => 0
  | .shl16RegImm _ _ => 0
  | .not16RegReg _ _ => 0
  | .swap16DestReg dst _ => dst.immWord
  | .mov16RegZp _ _ => 0
  | .mov16ZpReg _ _ => 0
  | .mul16RegSrc8 _ src => src.immWord
  | .mul16RegImm _ _ => 0
  | .mov16DestReg dst _ => dst.immWord
  | .branchAlways _ => 0
  | .branchCall _ => 0
  | .unassignedBranch2 _ => 0
  | .unassignedBranch3 _ => 0
  | .branchZ _ => 0
  | .branchNz _ => 0
  | .branchS _ => 0
  | .branchNs _ => 0
  | .branchC _ => 0
  | .branchNc _ => 0
  | .branchA _ => 0
  | .branchNa _ => 0
  | .branchV _ => 0
  | .branchNv _ => 0
  | .branchG _ => 0
  | .branchNg _ => 0

/-- The bytes of an instruction as the hardware stores them. -/
def encode (i : Instr) : List Byte :=
  if i.words = 2 then bytesOfWords (encodeWord i) (encodeImm i)
  else [(bytesOfWord (encodeWord i)).1, (bytesOfWord (encodeWord i)).2]

end Sys2Proof
end

