-- ==== Sys2Proof/Machine/State.lean ====
section
/-! DEFINITION. The machine's state as plain data (10_state.md), the reasons a step can stop, and the
state after reset (R32). -/

namespace Sys2Proof.Machine

/-- The 8 general registers (R16). -/
structure Regs where
  a : Byte
  b : Byte
  c : Byte
  d : Byte
  e : Byte
  f : Byte
  g : Byte
  h : Byte
deriving DecidableEq, Repr

/-- The four flags: zero, sign, signed carry, carry (R24). -/
structure Flags where
  z : Bool
  s : Bool
  v : Bool
  c : Bool
deriving DecidableEq, Repr

/-- The content of the 65536 byte addresses (R29, R40): the bytes that differ from what an unlisted
address reads as, by rising address. -/
abbrev Memory := List Host.Cell

/-- The whole state. The upper half of `sp` is the constant 1 and has no field (R22). -/
structure State where
  /-- The general registers `a` to `h`; the pairs are views of them (R16 to R18). -/
  regs : Regs
  /-- The address of the current instruction (R20). -/
  pc : Word
  /-- The low half of the stack pointer (R22). -/
  p : Byte
  /-- The flags (R24). -/
  flags : Flags
  /-- Memory (R29, R40). -/
  mem : Memory
  /-- The addresses that instructions have stored to since reset, rising: what R52 must know to refuse
  the fetch of a byte that the program has written. -/
  stored : List Nat
  /-- The model's own: how many arbitrary values have been consumed (R13; log 5). -/
  draws : Nat
deriving DecidableEq, Repr

/-- The reasons for a fault. -/
inductive Fault where
  /-- `fault(uninit)` of R34, the only fault the spec names. Raised by nobody: every register holds a
  value at reset, so no read meets state without one (unsafe; log 6 and 8). -/
  | uninit
deriving DecidableEq, Repr

/-- The reasons for a refusal: the cases of R241 to which the spec gives no meaning. All are safe: the
model stops where the hardware does something that the spec does not say. -/
inductive Refusal where
  /-- No meaning in this model yet. Raised by `exec`'s arm of such an instruction; there is none. Safe. -/
  | notModelled (mnemonic : String)
  /-- `refuse(unassigned_encoding)` (R82). Raised by the fetch where the decoder refuses the operand code, by the
  meanings of the unassigned rows, and by a 16-bit `cmp` or `test` whose operand is `zext(r8)`. Safe. -/
  | unassignedEncoding
  /-- `refuse(odd_pc)` (R21). Raised by the fetch at an odd `pc` and by a jump or call to an odd address. Safe. -/
  | oddPc
  /-- `refuse(fetch_wrap)` (R21). Raised by the fetch of an instruction that spans the end of the address space. Safe. -/
  | fetchWrap
  /-- `refuse(access_wrap)` (R43). Raised by a 16-bit data access at 0xffff. Safe. -/
  | accessWrap
  /-- `refuse(stack_wrap)` (R107). Raised by a stack operand that leaves the page 0x0100 to 0x01ff. Safe. -/
  | stackWrap
  /-- `refuse(call_sp_operand)` (R232). Raised by `call` with `[pop]` or `sp` as operand. Safe. -/
  | callSpOperand
  /-- `refuse(pointer_overlap)` (R111). Raised where `reg` overlaps the pointer of `[r16++]` or `[--r16]`. Safe. -/
  | pointerOverlap
  /-- `refuse(flags_dest_binop)` (R25). Raised by a binary operation whose destination is `flags`. Safe. -/
  | flagsDestBinop
  /-- `refuse(self_modifying)` (R52). Raised by the fetch of a byte that an instruction has stored. Safe. -/
  | selfModifying
deriving DecidableEq, Repr

/-- What a step or an instruction answers. -/
abbrev Result := Host.Outcome State Fault Refusal

/-- The machine after reset: `pc` as R32 gives it; the registers, `p` and the flags, which the spec leaves
uninitialized, at the parameter `INIT` (log 6); memory with nothing listed (log 7). -/
def State.reset : State where
  regs :=
    { a := Config.initByte, b := Config.initByte, c := Config.initByte, d := Config.initByte, e := Config.initByte,
      f := Config.initByte, g := Config.initByte, h := Config.initByte }
  pc := 0xfffc
  p := Config.initByte
  flags := { z := Config.initFlag, s := Config.initFlag, v := Config.initFlag, c := Config.initFlag }
  mem := []
  stored := []
  draws := 0

end Sys2Proof.Machine
end

