-- ==== Sys2Proof/Machine/Flags.lean ====
section
/-! DEFINITION. The flag register as a value, the adder, every flag computation, and the arithmetic of the
operations: binary operations (42_binop.md), shifts (43_shift.md), multiply (44_mul.md), and the branch
conditions (45_branch.md). -/

namespace Sys2Proof.Machine

/-! ### The register `flags` (R24, R25) -/

/-- Bits 3:0 of `flags`: `{c, v, s, z}` (R24). -/
def Flags.bits (f : Flags) : BitVec 4 :=
  BitVec.ofBool f.c ++ BitVec.ofBool f.v ++ BitVec.ofBool f.s ++ BitVec.ofBool f.z

/-- The flags that a 4-bit value `{c, v, s, z}` sets (R25). -/
def flagsOfBits (w : BitVec 4) : Flags where
  z := w.getLsbD 0
  s := w.getLsbD 1
  v := w.getLsbD 2
  c := w.getLsbD 3

/-- One flag after an instruction that does not compute it: as it was, or the arbitrary value (R26). -/
def flagLeft (a : FlagAfter) (old drawn : Bool) : Bool :=
  match a with
  | .unchanged => old
  | .drawn => drawn

/-- All four, each by its own entry (R26). -/
def flagsLeft (a : FlagsAfter) (old drawn : Flags) : Flags where
  z := flagLeft a.z old.z drawn.z
  s := flagLeft a.s old.s drawn.s
  v := flagLeft a.v old.v drawn.v
  c := flagLeft a.c old.c drawn.c

/-! ### Binary operations -/

/-- A result with its carry and signed carry. -/
structure Sum (w : Nat) where
  result : BitVec w
  carry : Bool
  signedCarry : Bool
deriving DecidableEq, Repr

/-- `ADD_W` (R14): the sum in `w + 1` bits gives the result and the carry; the signed carry says that the
exact signed sum is at least 0. -/
def adder {w : Nat} (x y : BitVec w) (cin : Bool) : Sum w :=
  let t : BitVec (w + 1) := x.setWidth (w + 1) + y.setWidth (w + 1) + (BitVec.ofBool cin).setWidth (w + 1)
  { result := t.setWidth w
    carry := t.getLsbD w
    signedCarry := decide (0 ≤ x.toInt + y.toInt + cin.toInt) }

/-- The binary operations, regular, reverse and alternate (R140). `cmp` is `sub` and `test` is `and` without a
destination. -/
inductive BinOp where
  | add | sub | adc | sbc | and | or | xor
  | revsub | revsbc | neg | negc | andNot | orNot | xorNot
deriving DecidableEq, Repr

/-- An operation with addition or subtraction sets all four flags (R141 to R143). -/
def arithmetic {w : Nat} (t : Sum w) : BitVec w × Flags :=
  (t.result, { z := t.result == 0#w, s := t.result.msb, v := t.signedCarry, c := t.carry })

/-- A logic operation sets `z` and `s` and leaves `v` and `c` (R143). -/
def logic {w : Nat} (r : BitVec w) (f : Flags) : BitVec w × Flags :=
  (r, { f with z := r == 0#w, s := r.msb })

/-- The result and the flags of an operation, from the destination's old value, the source's value and the
flags before (R140, R141, R143). -/
def binop {w : Nat} (op : BinOp) (dest src : BitVec w) (f : Flags) : BitVec w × Flags :=
  match op with
  | .add => arithmetic (adder dest src false)
  | .sub => arithmetic (adder dest (~~~src) true)
  | .adc => arithmetic (adder dest src f.c)
  | .sbc => arithmetic (adder dest (~~~src) f.c)
  | .and => logic (dest &&& src) f
  | .or => logic (dest ||| src) f
  | .xor => logic (dest ^^^ src) f
  | .revsub => arithmetic (adder src (~~~dest) true)
  | .revsbc => arithmetic (adder src (~~~dest) f.c)
  | .neg => arithmetic (adder 0 (~~~src) true)
  | .negc => arithmetic (adder 0 (~~~src) f.c)
  | .andNot => logic (dest &&& ~~~src) f
  | .orNot => logic (dest ||| ~~~src) f
  | .xorNot => logic (dest ^^^ ~~~src) f

/-! ### Shifts and multiply -/

/-- The shifts and rotates (R180). -/
inductive ShiftOp where
  | shl | shr | sar | rol | ror
deriving DecidableEq, Repr

/-- The effective count of an 8-bit shift: 4 bits for `shr` and `sar`, 3 for the others (R182). -/
def shiftCount8 (op : ShiftOp) (q : Byte) : Nat :=
  match op with
  | .shr | .sar => (q.extractLsb' 0 4).toNat
  | .shl | .rol | .ror => (q.extractLsb' 0 3).toNat

/-- The effective count of a 16-bit shift: always the bottom 4 bits (R182). -/
def shiftCount16 (q : Byte) : Nat := (q.extractLsb' 0 4).toNat

/-- The result of a shift by the effective count (R185 to R189). -/
def shift {w : Nat} (op : ShiftOp) (x : BitVec w) (k : Nat) : BitVec w :=
  match op with
  | .shl => x <<< k
  | .shr => x >>> k
  | .sar => x.sshiftRight k
  | .rol => x.rotateLeft k
  | .ror => x.rotateRight k

/-- The exact 16-bit product of an 8-bit multiply (R201). -/
def product8 (x s : Byte) : BitVec 16 := x.setWidth 16 * s.setWidth 16

/-- The exact 24-bit product of a 16-bit multiply (R201). -/
def product16 (x : Word) (s : Byte) : BitVec 24 := x.setWidth 24 * s.setWidth 24

/-! ### Branch conditions -/

/-- The conditions of `branch` that read flags (R212). -/
inductive Cond where
  | z | nz | s | ns | c | nc | a | na | v | nv | g | ng
deriving DecidableEq, Repr

/-- When a conditional branch is taken (R212). -/
def Cond.holds (cc : Cond) (f : Flags) : Bool :=
  match cc with
  | .z => f.z
  | .nz => !f.z
  | .s => f.s
  | .ns => !f.s
  | .c => f.c
  | .nc => !f.c
  | .a => f.c && !f.z
  | .na => !f.c || f.z
  | .v => f.v
  | .nv => !f.v
  | .g => f.v && !f.z
  | .ng => !f.v || f.z

end Sys2Proof.Machine
end

