-- ==== Sys2Proof/Machine/Ops.lean ====
section
/-! DEFINITION. The named operations on the state: memory, the general registers and pairs, the stack
pointer, the flags, the arbitrary values, the program counter. The hardware has no exceptions
(60_exceptions.md R240), so there is no operation that takes one or returns from one. -/

namespace Sys2Proof.Machine

/-! ### Memory as data -/

/-- What an address that memory does not list reads as (log 7). -/
def Memory.unlisted : Byte := Config.initMem

/-- The byte at an address. -/
def Memory.read : Memory → Nat → Byte
  | [], _ => Memory.unlisted
  | (k, b) :: rest, a => if k = a then b else Memory.read rest a

/-- Memory with one byte changed, in canonical form again. -/
def Memory.write : Memory → Nat → Byte → Memory
  | [], a, v => if v = Memory.unlisted then [] else [(a, v)]
  | (k, b) :: rest, a, v =>
    if k < a then (k, b) :: Memory.write rest a v
    else if k = a then (if v = Memory.unlisted then rest else (a, v) :: rest)
    else if v = Memory.unlisted then (k, b) :: rest
    else (a, v) :: (k, b) :: rest

/-- Addresses strictly rising from `lo`, inside the address space, and no entry equal to what an unlisted
address reads as. -/
def Memory.wfFrom : Nat → Memory → Bool
  | _, [] => true
  | lo, (k, b) :: rest => decide (lo ≤ k) && decide (k < 65536) && decide (b ≠ Memory.unlisted) && Memory.wfFrom (k + 1) rest

/-- The canonical form. -/
def Memory.wf (m : Memory) : Bool := Memory.wfFrom 0 m

/-! ### Sets of addresses -/

/-- A rising list of addresses with one more. -/
def insertAddr : List Nat → Nat → List Nat
  | [], a => [a]
  | k :: rest, a =>
    if k < a then k :: insertAddr rest a
    else if k = a then k :: rest
    else a :: k :: rest

/-- Addresses strictly rising from `lo`, inside the address space. -/
def addrsWfFrom : Nat → List Nat → Bool
  | _, [] => true
  | lo, k :: rest => decide (lo ≤ k) && decide (k < 65536) && addrsWfFrom (k + 1) rest

/-- The canonical form of a set of addresses. -/
def addrsWf (l : List Nat) : Bool := addrsWfFrom 0 l

/-! ### Registers -/

/-- `r8[n]` (R11, R16). -/
def State.reg8 (s : State) : Reg8 → Byte
  | .a => s.regs.a
  | .b => s.regs.b
  | .c => s.regs.c
  | .d => s.regs.d
  | .e => s.regs.e
  | .f => s.regs.f
  | .g => s.regs.g
  | .h => s.regs.h

/-- `r8[n] <- v` (R11). -/
def State.setReg8 (s : State) (r : Reg8) (v : Byte) : State :=
  match r with
  | .a => { s with regs := { s.regs with a := v } }
  | .b => { s with regs := { s.regs with b := v } }
  | .c => { s with regs := { s.regs with c := v } }
  | .d => { s with regs := { s.regs with d := v } }
  | .e => { s with regs := { s.regs with e := v } }
  | .f => { s with regs := { s.regs with f := v } }
  | .g => { s with regs := { s.regs with g := v } }
  | .h => { s with regs := { s.regs with h := v } }

/-- The register that is the upper half of a pair (R18). -/
def upperHalf : Reg16 → Reg8
  | .ba => .b
  | .dc => .d
  | .fe => .f
  | .hg => .h

/-- The register that is the lower half of a pair (R18). -/
def lowerHalf : Reg16 → Reg8
  | .ba => .a
  | .dc => .c
  | .fe => .e
  | .hg => .g

/-- `r16[k]`, a view of two registers (R17, R18). -/
def State.reg16 (s : State) (k : Reg16) : Word :=
  joinBytes (s.reg8 (upperHalf k)) (s.reg8 (lowerHalf k))

/-- `r16[k] <- v`: both halves (R11, R17). -/
def State.setReg16 (s : State) (k : Reg16) (v : Word) : State :=
  (s.setReg8 (upperHalf k) (hiByte v)).setReg8 (lowerHalf k) (loByte v)

/-- `pc <- t`. -/
def State.setPc (s : State) (t : Word) : State := { s with pc := t }

/-- `npc = (pc + 2 L) mod 2^16` (R11, R21). -/
def State.npc (s : State) (words : Nat) : Word := s.pc + BitVec.ofNat 16 (2 * words)

/-- `pc <- npc`. -/
def State.advance (s : State) (words : Nat) : State := s.setPc (s.npc words)

/-- `p <- v`. -/
def State.setP (s : State) (v : Byte) : State := { s with p := v }

/-- The stack address that a low half `p` gives: `{0x01, p}` (R22). -/
def stackAddr (p : Byte) : Word := joinBytes 0x01 p

/-- The value of `sp` (R22). -/
def State.sp (s : State) : Word := stackAddr s.p

/-! ### Flags and arbitrary values -/

/-- Set all four flags. -/
def State.setFlags (s : State) (f : Flags) : State := { s with flags := f }

/-- `draw(4)`: the next arbitrary value (R13; log 5). -/
def State.draw (s : State) : BitVec 4 := Config.draw s.draws

/-- That value is consumed, so that the next `draw` is another one (R13). -/
def State.drawn (s : State) : State := { s with draws := s.draws + 1 }

/-- A read of the operand `flags`: `{draw(4), c, v, s, z}` (R25). -/
def State.flagsByte (s : State) : Byte := s.draw ++ s.flags.bits

/-- A write of the operand `flags`, which ignores bits 7:4 (R25). -/
def State.setFlagsByte (s : State) (w : Byte) : State := s.setFlags (flagsOfBits (w.extractLsb' 0 4))

/-- What `FLAGS_AFTER` leaves: each flag stays or takes its bit of the next arbitrary value, which is consumed
(R26, R126, R183, R201; log 5, log 19). -/
def State.leaveFlags (s : State) (g : FlagsAfterGroup) : State :=
  (s.setFlags (flagsLeft (Config.flagsAfter g) s.flags (flagsOfBits s.draw))).drawn

/-! ### Memory accesses of the CPU (R12, R42) -/

/-- `MemRead(addr, 1)`. -/
def State.readByte (s : State) (a : Word) : Byte := s.mem.read a.toNat

/-- `MemWrite(addr, 1, v)`; the address is noted as stored to (R52). -/
def State.storeByte (s : State) (a : Word) (v : Byte) : State :=
  { s with mem := s.mem.write a.toNat v, stored := insertAddr s.stored a.toNat }

/-- `MemRead(addr, 2)`; refused at 0xffff (R42, R43). -/
def State.readWord (s : State) (a : Word) : Except Refusal Word :=
  if a = 0xffff then .error .accessWrap
  else .ok (wordOfBytes (s.readByte a) (s.readByte (a + 1)))

/-- `MemWrite(addr, 2, v)`; refused at 0xffff (R42, R43). -/
def State.storeWord (s : State) (a : Word) (v : Word) : Except Refusal State :=
  if a = 0xffff then .error .accessWrap
  else .ok ((s.storeByte a (bytesOfWord v).1).storeByte (a + 1) (bytesOfWord v).2)

/-- An instruction has stored to this address since reset (R52). -/
def State.wasStored (s : State) (a : Word) : Bool := decide (a.toNat ∈ s.stored)

/-! ### The stack (R104 to R107); `n` is the size of the step in bytes -/

/-- `[pop]`: the address, and the state with `p` moved up (R104). -/
def State.pop (s : State) (n : Nat) : Except Refusal (Word × State) :=
  if 256 < s.p.toNat + n then .error .stackWrap
  else .ok (stackAddr s.p, s.setP (s.p + BitVec.ofNat 8 n))

/-- `[push]`: the state with `p` moved down, and the address (R105). -/
def State.push (s : State) (n : Nat) : Except Refusal (Word × State) :=
  if s.p.toNat < n then .error .stackWrap
  else .ok (stackAddr (s.p - BitVec.ofNat 8 n), s.setP (s.p - BitVec.ofNat 8 n))

/-- `[sp]`: the address, `p` unchanged (R106). -/
def State.top (s : State) (n : Nat) : Except Refusal (Word × State) :=
  if 256 < s.p.toNat + n then .error .stackWrap
  else .ok (stackAddr s.p, s)

/-- The push that `call` and `branch call` make (R105, R215, R232). -/
def State.pushWord (s : State) (v : Word) : Except Refusal State :=
  match s.push 2 with
  | .error e => .error e
  | .ok (a, s1) => s1.storeWord a v

/-! ### Control transfer -/

/-- `pc <- t`, refused where `t` is odd (R21, R231). -/
def State.jumpTo (s : State) (t : Word) : Result :=
  if t.getLsbD 0 then .refused .oddPc else .next (s.setPc t)

/-- The target of a relative branch: `pc + 2 sx(imm8)` (R211). -/
def State.branchTarget (s : State) (imm : BitVec 8) : Word := s.pc + 2 * imm.signExtend 16

/-! ### Loading from outside -/

/-- Bytes put into memory from an address on by whoever loads it, not by the CPU: no address is noted as
stored to, and those that were are so no longer (R268: loading is not a store by the CPU). Addresses are
taken modulo 2^16. -/
def State.load : State → Word → List Byte → State
  | s, _, [] => s
  | s, a, b :: rest =>
    State.load { s with mem := s.mem.write a.toNat b, stored := s.stored.filter (fun k => k ≠ a.toNat) } (a + 1) rest

end Sys2Proof.Machine
end

