-- ==== Sys2Proof/Machine/Operands.lean ====
section
/-! DEFINITION. Every operand form (40_operands.md): its address, its pointer update, its value or its
location. An evaluation answers the value or location together with the state after the operand's own side
effects, or a refusal. -/

namespace Sys2Proof.Machine

/-! ### Memory forms (R99 to R103); `n` is the step and scale in bytes -/

/-- The effective address (R92: modulo 2^16). -/
def memAddr (m : MemMode) (n : Nat) (s : State) : Word :=
  match m with
  | .indexed base index => s.reg16 base + (s.reg8 index).setWidth 16
  | .postInc ptr => s.reg16 ptr
  | .preDec ptr => s.reg16 ptr - BitVec.ofNat 16 n
  | .disp base imm2 => s.reg16 base + BitVec.ofNat 16 (n * imm2.toNat)
  | .abs addr => addr

/-- The pointer update of `[r16++]` and `[--r16]`; the other forms change no register. -/
def memTouch (m : MemMode) (n : Nat) (s : State) : State :=
  match m with
  | .postInc ptr => s.setReg16 ptr (s.reg16 ptr + BitVec.ofNat 16 n)
  | .preDec ptr => s.setReg16 ptr (s.reg16 ptr - BitVec.ofNat 16 n)
  | .indexed _ _ | .disp _ _ | .abs _ => s

/-- The pointer register that a form updates, if any. -/
def memPointer : MemMode → Option Reg16
  | .postInc ptr | .preDec ptr => some ptr
  | .indexed _ _ | .disp _ _ | .abs _ => none

def byteSrcPointer : ByteSrc → Option Reg16
  | .mem m => memPointer m
  | .reg _ | .flags | .sp | .imm _ | .pop => none

def wordSrcPointer : WordSrc → Option Reg16
  | .mem m => memPointer m
  | .reg _ | .ext _ | .sp | .imm _ | .pop => none

def byteDestPointer : ByteDest → Option Reg16
  | .mem m => memPointer m
  | .reg _ | .flags | .sp | .stack => none

def wordDestPointer : WordDest → Option Reg16
  | .mem m => memPointer m
  | .reg _ | .sp | .stack => none

def src8Pointer : Src8 → Option Reg16
  | .mem m => memPointer m
  | .reg _ | .sp | .imm _ | .pop => none

/-! ### Sources -/

/-- `src` of an 8-bit instruction. -/
def evalByteSrc (src : ByteSrc) (s : State) : Except Refusal (Byte × State) :=
  match src with
  | .reg r => .ok (s.reg8 r, s)
  | .flags => .ok (s.flagsByte, s.drawn)
  | .sp => .ok (s.p, s)
  | .imm v => .ok (loByte v, s)
  | .pop =>
    match s.pop 1 with
    | .error e => .error e
    | .ok (a, s1) => .ok (s.readByte a, s1)
  | .mem m => .ok (s.readByte (memAddr m 1 s), memTouch m 1 s)

/-- The extension that operand code `001rrr` denotes in the instruction with first word `w` (R96). -/
def extend (w : Word) (v : Byte) : Word :=
  match Config.ext16Select w with
  | .sext => v.signExtend 16
  | .zext => v.setWidth 16

/-- `src` of a 16-bit instruction, and `src16`; `w` is the instruction's first word, which selects the
extension of an 8-bit register (R96). -/
def evalWordSrc (w : Word) (src : WordSrc) (s : State) : Except Refusal (Word × State) :=
  match src with
  | .reg k => .ok (s.reg16 k, s)
  | .ext r => .ok (extend w (s.reg8 r), s)
  | .sp => .ok (s.sp, s)
  | .imm v => .ok (v, s)
  | .pop =>
    match s.pop 2 with
    | .error e => .error e
    | .ok (a, s1) =>
      match s.readWord a with
      | .error e => .error e
      | .ok v => .ok (v, s1)
  | .mem m =>
    match s.readWord (memAddr m 2 s) with
    | .error e => .error e
    | .ok v => .ok (v, memTouch m 2 s)

/-- `zext(r8)` is "not for cmp and test": those two refuse the operand code where it denotes `zext` (R96). -/
def zextUnderCompare (w : Word) (src : WordSrc) : Bool :=
  match src with
  | .ext _ => decide (Config.ext16Select w = .zext)
  | .reg _ | .sp | .imm _ | .pop | .mem _ => false

/-- The step of `src8` under an 8-bit instruction (R109). -/
def src8StepByte : Nat := 1

/-- The step of `src8` under a 16-bit instruction: the parameter `SRC8_STEP16` (R109; log 4). -/
def src8StepWord : Nat :=
  match Config.src8Step16 with
  | .one => 1
  | .two => 2

/-- `src8`, one byte at either instruction size; `n` is the step and scale of its modes (R109). -/
def evalSrc8 (n : Nat) (src : Src8) (s : State) : Except Refusal (Byte × State) :=
  match src with
  | .reg r => .ok (s.reg8 r, s)
  | .sp => .ok (s.p, s)
  | .imm v => .ok (loByte v, s)
  | .pop =>
    match s.pop n with
    | .error e => .error e
    | .ok (a, s1) => .ok (s.readByte a, s1)
  | .mem m => .ok (s.readByte (memAddr m n s), memTouch m n s)

/-! ### Zero page (R108) -/

/-- The address of an 8-bit `[zp]` operand. -/
def zpByteAddr (zp : BitVec 7) : Word := zp.setWidth 16

/-- The address of a 16-bit `[zp]` operand: twice `imm7`. -/
def zpWordAddr (zp : BitVec 7) : Word := 2 * zp.setWidth 16

/-! ### Destinations (R92) -/

/-- Where an 8-bit destination is. -/
inductive ByteLoc where
  | reg (r : Reg8)
  | flags
  | sp
  | mem (a : Word)
deriving DecidableEq, Repr

/-- Where a 16-bit destination is. -/
inductive WordLoc where
  | reg (k : Reg16)
  | sp
  | mem (a : Word)
deriving DecidableEq, Repr

/-- The two roles of a destination, which the stack code tells apart (R81). -/
inductive DestRole where
  /-- Written without being read: `mov dest, reg`; the stack code is `[push]`. -/
  | write
  /-- Read and written: `binop dest, reg`, `swap dest, reg`; the stack code is `[sp]`. -/
  | modify
deriving DecidableEq, Repr

/-- The stack operand of a destination, by role (R105, R106). -/
def destStack (role : DestRole) (n : Nat) (s : State) : Except Refusal (Word × State) :=
  match role with
  | .write => s.push n
  | .modify => s.top n

/-- `dest` of an 8-bit instruction. -/
def evalByteDest (role : DestRole) (dst : ByteDest) (s : State) : Except Refusal (ByteLoc × State) :=
  match dst with
  | .reg r => .ok (.reg r, s)
  | .flags => .ok (.flags, s)
  | .sp => .ok (.sp, s)
  | .stack =>
    match destStack role 1 s with
    | .error e => .error e
    | .ok (a, s1) => .ok (.mem a, s1)
  | .mem m => .ok (.mem (memAddr m 1 s), memTouch m 1 s)

/-- `dest` of a 16-bit instruction. -/
def evalWordDest (role : DestRole) (dst : WordDest) (s : State) : Except Refusal (WordLoc × State) :=
  match dst with
  | .reg k => .ok (.reg k, s)
  | .sp => .ok (.sp, s)
  | .stack =>
    match destStack role 2 s with
    | .error e => .error e
    | .ok (a, s1) => .ok (.mem a, s1)
  | .mem m => .ok (.mem (memAddr m 2 s), memTouch m 2 s)

/-- `Read(loc)`, 8 bits; reading `flags` consumes an arbitrary value (R25, R92). -/
def readByteLoc (loc : ByteLoc) (s : State) : Byte × State :=
  match loc with
  | .reg r => (s.reg8 r, s)
  | .flags => (s.flagsByte, s.drawn)
  | .sp => (s.p, s)
  | .mem a => (s.readByte a, s)

/-- `Write(loc, v)`, 8 bits (R92). -/
def writeByteLoc (loc : ByteLoc) (v : Byte) (s : State) : State :=
  match loc with
  | .reg r => s.setReg8 r v
  | .flags => s.setFlagsByte v
  | .sp => s.setP v
  | .mem a => s.storeByte a v

/-- `Read(loc)`, 16 bits (R92). -/
def readWordLoc (loc : WordLoc) (s : State) : Except Refusal Word :=
  match loc with
  | .reg k => .ok (s.reg16 k)
  | .sp => .ok s.sp
  | .mem a => s.readWord a

/-- `Write(loc, v)`, 16 bits; a write of `sp` keeps the low byte (R23, R92). -/
def writeWordLoc (loc : WordLoc) (v : Word) (s : State) : Except Refusal State :=
  match loc with
  | .reg k => .ok (s.setReg16 k v)
  | .sp => .ok (s.setP (loByte v))
  | .mem a => s.storeWord a v

end Sys2Proof.Machine
end

