-- ==== Sys2Proof/Machine/Forms.lean ====
section
/-! DEFINITION. The instruction forms that many instructions share (41_mov_swap.md, 42_binop.md R144,
43_shift.md, 44_mul.md, 45_branch.md): each instruction's meaning is one of these with its operation. All
register reads see the state before the instruction (R111). -/

namespace Sys2Proof.Machine

/-! ### 8-bit binary operations -/

/-- `binop reg, src` (R144). -/
def byteRegSrc (op : BinOp) (r : Reg8) (src : ByteSrc) (s : State) : Result :=
  if byteSrcPointer src = some r.pair then .refused .pointerOverlap
  else
    match evalByteSrc src s with
    | .error e => .refused e
    | .ok (v, s1) =>
      .next (((s1.setReg8 r (binop op (s.reg8 r) v s.flags).1).setFlags (binop op (s.reg8 r) v s.flags).2).advance src.words)

/-- `cmp reg, src` and `test reg, src`: only the flags are written (R152, R153). -/
def byteCompareSrc (op : BinOp) (r : Reg8) (src : ByteSrc) (s : State) : Result :=
  if byteSrcPointer src = some r.pair then .refused .pointerOverlap
  else
    match evalByteSrc src s with
    | .error e => .refused e
    | .ok (v, s1) => .next ((s1.setFlags (binop op (s.reg8 r) v s.flags).2).advance src.words)

/-- `binop reg, x` with the source's value at hand: `imm6` or `[zp]` (R144). -/
def byteRegValue (op : BinOp) (r : Reg8) (v : Byte) (s : State) : Result :=
  .next (((s.setReg8 r (binop op (s.reg8 r) v s.flags).1).setFlags (binop op (s.reg8 r) v s.flags).2).advance 1)

/-- `cmp` and `test` with the source's value at hand. -/
def byteCompareValue (op : BinOp) (r : Reg8) (v : Byte) (s : State) : Result :=
  .next ((s.setFlags (binop op (s.reg8 r) v s.flags).2).advance 1)

/-- `binop [zp], reg` (R144). -/
def byteZpReg (op : BinOp) (zp : BitVec 7) (r : Reg8) (s : State) : Result :=
  let t := binop op (s.readByte (zpByteAddr zp)) (s.reg8 r) s.flags
  .next (((s.storeByte (zpByteAddr zp) t.1).setFlags t.2).advance 1)

/-- `binop dest, reg`; refused where `dest` is `flags` (R25, R144). -/
def byteDestReg (op : BinOp) (dst : ByteDest) (r : Reg8) (s : State) : Result :=
  if dst = .flags then .refused .flagsDestBinop
  else if byteDestPointer dst = some r.pair then .refused .pointerOverlap
  else
    match evalByteDest .modify dst s with
    | .error e => .refused e
    | .ok (loc, s1) =>
      let t := binop op (readByteLoc loc s1).1 (s.reg8 r) s.flags
      .next (((writeByteLoc loc t.1 s1).setFlags t.2).advance dst.words)

/-- `alt_binop reg1, reg2` (R68, R144). -/
def byteRegReg (op : BinOp) (r1 r2 : Reg8) (s : State) : Result :=
  byteRegValue op r1 (s.reg8 r2) s

/-! ### 16-bit binary operations; `w` is the instruction's first word -/

/-- `binop reg, src` (R144). -/
def wordRegSrc (op : BinOp) (w : Word) (r : Reg16) (src : WordSrc) (s : State) : Result :=
  if wordSrcPointer src = some r then .refused .pointerOverlap
  else
    match evalWordSrc w src s with
    | .error e => .refused e
    | .ok (v, s1) =>
      .next (((s1.setReg16 r (binop op (s.reg16 r) v s.flags).1).setFlags (binop op (s.reg16 r) v s.flags).2).advance src.words)

/-- `cmp reg, src` and `test reg, src` (R152, R153); `zext(r8)` is not for them (R96). -/
def wordCompareSrc (op : BinOp) (w : Word) (r : Reg16) (src : WordSrc) (s : State) : Result :=
  if zextUnderCompare w src then .refused .unassignedEncoding
  else if wordSrcPointer src = some r then .refused .pointerOverlap
  else
    match evalWordSrc w src s with
    | .error e => .refused e
    | .ok (v, s1) => .next ((s1.setFlags (binop op (s.reg16 r) v s.flags).2).advance src.words)

/-- `binop reg, x` with the source's value at hand (R144). -/
def wordRegValue (op : BinOp) (r : Reg16) (v : Word) (s : State) : Result :=
  .next (((s.setReg16 r (binop op (s.reg16 r) v s.flags).1).setFlags (binop op (s.reg16 r) v s.flags).2).advance 1)

/-- `cmp` and `test` with the source's value at hand. -/
def wordCompareValue (op : BinOp) (r : Reg16) (v : Word) (s : State) : Result :=
  .next ((s.setFlags (binop op (s.reg16 r) v s.flags).2).advance 1)

/-- `binop reg, [zp]` (R144). -/
def wordRegZp (op : BinOp) (r : Reg16) (zp : BitVec 7) (s : State) : Result :=
  match s.readWord (zpWordAddr zp) with
  | .error e => .refused e
  | .ok v => wordRegValue op r v s

/-- `cmp reg, [zp]` and `test reg, [zp]` (R152, R153). -/
def wordCompareZp (op : BinOp) (r : Reg16) (zp : BitVec 7) (s : State) : Result :=
  match s.readWord (zpWordAddr zp) with
  | .error e => .refused e
  | .ok v => wordCompareValue op r v s

/-- `binop [zp], reg` (R144). -/
def wordZpReg (op : BinOp) (zp : BitVec 7) (r : Reg16) (s : State) : Result :=
  match s.readWord (zpWordAddr zp) with
  | .error e => .refused e
  | .ok v =>
    let t := binop op v (s.reg16 r) s.flags
    match s.storeWord (zpWordAddr zp) t.1 with
    | .error e => .refused e
    | .ok s1 => .next ((s1.setFlags t.2).advance 1)

/-- `binop dest, reg` (R144). -/
def wordDestReg (op : BinOp) (dst : WordDest) (r : Reg16) (s : State) : Result :=
  if wordDestPointer dst = some r then .refused .pointerOverlap
  else
    match evalWordDest .modify dst s with
    | .error e => .refused e
    | .ok (loc, s1) =>
      match readWordLoc loc s1 with
      | .error e => .refused e
      | .ok v =>
        let t := binop op v (s.reg16 r) s.flags
        match writeWordLoc loc t.1 s1 with
        | .error e => .refused e
        | .ok s2 => .next ((s2.setFlags t.2).advance dst.words)

/-- `alt_binop reg1, reg2` (R68, R144). -/
def wordRegReg (op : BinOp) (r1 r2 : Reg16) (s : State) : Result :=
  wordRegValue op r1 (s.reg16 r2) s

/-! ### Shifts (R180 to R184) -/

/-- An 8-bit shift by the raw count `q`. -/
def byteShift (op : ShiftOp) (r : Reg8) (q : Byte) (before after : State) (words : Nat) : State :=
  ((after.setReg8 r (shift op (before.reg8 r) (shiftCount8 op q))).leaveFlags .shift).advance words

/-- A 16-bit shift by the raw count `q`. -/
def wordShift (op : ShiftOp) (r : Reg16) (q : Byte) (before after : State) (words : Nat) : State :=
  ((after.setReg16 r (shift op (before.reg16 r) (shiftCount16 q))).leaveFlags .shift).advance words

/-- `shift reg, src8`, 8 bit. -/
def byteShiftSrc8 (op : ShiftOp) (r : Reg8) (src : Src8) (s : State) : Result :=
  if src8Pointer src = some r.pair then .refused .pointerOverlap
  else
    match evalSrc8 src8StepByte src s with
    | .error e => .refused e
    | .ok (q, s1) => .next (byteShift op r q s s1 src.words)

/-- `shift reg, src8`, 16 bit. -/
def wordShiftSrc8 (op : ShiftOp) (r : Reg16) (src : Src8) (s : State) : Result :=
  if src8Pointer src = some r then .refused .pointerOverlap
  else
    match evalSrc8 src8StepWord src s with
    | .error e => .refused e
    | .ok (q, s1) => .next (wordShift op r q s s1 src.words)

/-- `shift reg, imm4`, 8 bit: the count is zero-extended (R182). -/
def byteShiftImm (op : ShiftOp) (r : Reg8) (imm : BitVec 4) (s : State) : Result :=
  .next (byteShift op r (imm.setWidth 8) s s 1)

/-- `shift reg, imm4`, 16 bit. -/
def wordShiftImm (op : ShiftOp) (r : Reg16) (imm : BitVec 4) (s : State) : Result :=
  .next (wordShift op r (imm.setWidth 8) s s 1)

/-! ### Multiply (R201) -/

/-- An 8-bit multiply by `v`: the low byte to `reg`, the high byte to `h` unless `reg` is `h`. -/
def byteMul (r : Reg8) (v : Byte) (before after : State) (words : Nat) : State :=
  let t := product8 (before.reg8 r) v
  let low := after.setReg8 r (t.extractLsb' 0 8)
  ((if r = .h then low else low.setReg8 .h (t.extractLsb' 8 8)).leaveFlags .mul).advance words

/-- A 16-bit multiply by `v`: the low word to `reg`, the top byte to `h` unless `reg` is `hg`. -/
def wordMul (r : Reg16) (v : Byte) (before after : State) (words : Nat) : State :=
  let t := product16 (before.reg16 r) v
  let low := after.setReg16 r (t.extractLsb' 0 16)
  ((if r = .hg then low else low.setReg8 .h (t.extractLsb' 16 8)).leaveFlags .mul).advance words

/-- `mul reg, src8`, 8 bit; the pointer may overlap neither `reg` nor the implicit `h` (R111, R202). -/
def byteMulSrc8 (r : Reg8) (src : Src8) (s : State) : Result :=
  if src8Pointer src = some r.pair ∨ src8Pointer src = some .hg then .refused .pointerOverlap
  else
    match evalSrc8 src8StepByte src s with
    | .error e => .refused e
    | .ok (v, s1) => .next (byteMul r v s s1 src.words)

/-- `mul reg, src8`, 16 bit (R111, R202). -/
def wordMulSrc8 (r : Reg16) (src : Src8) (s : State) : Result :=
  if src8Pointer src = some r ∨ src8Pointer src = some .hg then .refused .pointerOverlap
  else
    match evalSrc8 src8StepWord src s with
    | .error e => .refused e
    | .ok (v, s1) => .next (wordMul r v s s1 src.words)

/-! ### Moves (41_mov_swap.md) -/

/-- `mov reg, src`, 8 bit (R121). -/
def byteMovRegSrc (r : Reg8) (src : ByteSrc) (s : State) : Result :=
  if byteSrcPointer src = some r.pair then .refused .pointerOverlap
  else
    match evalByteSrc src s with
    | .error e => .refused e
    | .ok (v, s1) => .next ((s1.setReg8 r v).advance src.words)

/-- `mov reg, src`, 16 bit (R121). -/
def wordMovRegSrc (w : Word) (r : Reg16) (src : WordSrc) (s : State) : Result :=
  if wordSrcPointer src = some r then .refused .pointerOverlap
  else
    match evalWordSrc w src s with
    | .error e => .refused e
    | .ok (v, s1) => .next ((s1.setReg16 r v).advance src.words)

/-- `mov dest, reg`, 8 bit: the register is read before any pointer update (R122). -/
def byteMovDestReg (dst : ByteDest) (r : Reg8) (s : State) : Result :=
  if byteDestPointer dst = some r.pair then .refused .pointerOverlap
  else
    match evalByteDest .write dst s with
    | .error e => .refused e
    | .ok (loc, s1) => .next ((writeByteLoc loc (s.reg8 r) s1).advance dst.words)

/-- `mov dest, reg`, 16 bit (R122). -/
def wordMovDestReg (dst : WordDest) (r : Reg16) (s : State) : Result :=
  if wordDestPointer dst = some r then .refused .pointerOverlap
  else
    match evalWordDest .write dst s with
    | .error e => .refused e
    | .ok (loc, s1) =>
      match writeWordLoc loc (s.reg16 r) s1 with
      | .error e => .refused e
      | .ok s2 => .next (s2.advance dst.words)

/-- `swap dest, reg`, 8 bit: both reads before both writes (R128). -/
def byteSwapDestReg (dst : ByteDest) (r : Reg8) (s : State) : Result :=
  if byteDestPointer dst = some r.pair then .refused .pointerOverlap
  else
    match evalByteDest .modify dst s with
    | .error e => .refused e
    | .ok (loc, s1) =>
      let t := readByteLoc loc s1
      .next (((writeByteLoc loc (s.reg8 r) t.2).setReg8 r t.1).advance dst.words)

/-- `swap dest, reg`, 16 bit (R128). -/
def wordSwapDestReg (dst : WordDest) (r : Reg16) (s : State) : Result :=
  if wordDestPointer dst = some r then .refused .pointerOverlap
  else
    match evalWordDest .modify dst s with
    | .error e => .refused e
    | .ok (loc, s1) =>
      match readWordLoc loc s1 with
      | .error e => .refused e
      | .ok t =>
        match writeWordLoc loc (s.reg16 r) s1 with
        | .error e => .refused e
        | .ok s2 => .next ((s2.setReg16 r t).advance dst.words)

/-! ### Control transfer (R211, R212) -/

/-- A conditional branch: to the target if the condition holds, else to the next instruction. -/
def branchIf (cc : Cond) (imm : BitVec 8) (s : State) : Result :=
  .next (if cc.holds s.flags then s.setPc (s.branchTarget imm) else s.advance 1)

end Sys2Proof.Machine
end

