-- ==== Sys2Proof/Machine/Binop16.lean ====
section
/-! DEFINITION. The 16-bit binary operations, regular, reverse and alternate, with `cmp` and `test` (42_binop.md). Where an
operand may be `sext(r8)` or `zext(r8)`, the instruction's own first word is passed on, which selects between them (R96). -/

namespace Sys2Proof.Machine

/-- `add reg, src`, 16 bit (R145). -/
def execAdd16RegSrc (r : Reg16) (src : WordSrc) (s : State) : Result :=
  wordRegSrc .add (encodeWord (.add16RegSrc r src)) r src s

/-- `sub reg, src`, 16 bit (R146). -/
def execSub16RegSrc (r : Reg16) (src : WordSrc) (s : State) : Result :=
  wordRegSrc .sub (encodeWord (.sub16RegSrc r src)) r src s

/-- `adc reg, src`, 16 bit (R147). -/
def execAdc16RegSrc (r : Reg16) (src : WordSrc) (s : State) : Result :=
  wordRegSrc .adc (encodeWord (.adc16RegSrc r src)) r src s

/-- `sbc reg, src`, 16 bit (R148). -/
def execSbc16RegSrc (r : Reg16) (src : WordSrc) (s : State) : Result :=
  wordRegSrc .sbc (encodeWord (.sbc16RegSrc r src)) r src s

/-- `and reg, src`, 16 bit (R149). -/
def execAnd16RegSrc (r : Reg16) (src : WordSrc) (s : State) : Result :=
  wordRegSrc .and (encodeWord (.and16RegSrc r src)) r src s

/-- `or reg, src`, 16 bit (R150). -/
def execOr16RegSrc (r : Reg16) (src : WordSrc) (s : State) : Result :=
  wordRegSrc .or (encodeWord (.or16RegSrc r src)) r src s

/-- `xor reg, src`, 16 bit (R151). -/
def execXor16RegSrc (r : Reg16) (src : WordSrc) (s : State) : Result :=
  wordRegSrc .xor (encodeWord (.xor16RegSrc r src)) r src s

/-- `cmp reg, src`, 16 bit (R152). -/
def execCmp16RegSrc (r : Reg16) (src : WordSrc) (s : State) : Result :=
  wordCompareSrc .sub (encodeWord (.cmp16RegSrc r src)) r src s

/-- `add reg, imm6`, 16 bit (R145). -/
def execAdd16RegImm (r : Reg16) (imm : BitVec 6) (s : State) : Result := wordRegValue .add r (imm.signExtend 16) s

/-- `revsub reg, imm6`, 16 bit (R154). -/
def execRevsub16RegImm (r : Reg16) (imm : BitVec 6) (s : State) : Result :=
  wordRegValue .revsub r (imm.signExtend 16) s

/-- `adc reg, imm6`, 16 bit (R147). -/
def execAdc16RegImm (r : Reg16) (imm : BitVec 6) (s : State) : Result := wordRegValue .adc r (imm.signExtend 16) s

/-- `revsbc reg, imm6`, 16 bit (R155). -/
def execRevsbc16RegImm (r : Reg16) (imm : BitVec 6) (s : State) : Result :=
  wordRegValue .revsbc r (imm.signExtend 16) s

/-- `and reg, imm6`, 16 bit (R149). -/
def execAnd16RegImm (r : Reg16) (imm : BitVec 6) (s : State) : Result := wordRegValue .and r (imm.signExtend 16) s

/-- `or reg, imm6`, 16 bit (R150). -/
def execOr16RegImm (r : Reg16) (imm : BitVec 6) (s : State) : Result := wordRegValue .or r (imm.signExtend 16) s

/-- `xor reg, imm6`, 16 bit (R151). -/
def execXor16RegImm (r : Reg16) (imm : BitVec 6) (s : State) : Result := wordRegValue .xor r (imm.signExtend 16) s

/-- `cmp reg, imm6`, 16 bit (R152). -/
def execCmp16RegImm (r : Reg16) (imm : BitVec 6) (s : State) : Result := wordCompareValue .sub r (imm.signExtend 16) s

/-- `test reg, src`, 16 bit (R153). -/
def execTest16RegSrc (r : Reg16) (src : WordSrc) (s : State) : Result :=
  wordCompareSrc .and (encodeWord (.test16RegSrc r src)) r src s

/-- `neg reg1, reg2`, 16 bit (R156). -/
def execNeg16RegReg (r1 : Reg16) (r2 : Reg16) (s : State) : Result := wordRegReg .neg r1 r2 s

/-- `revsub reg1, reg2`, 16 bit (R154). -/
def execRevsub16RegReg (r1 : Reg16) (r2 : Reg16) (s : State) : Result := wordRegReg .revsub r1 r2 s

/-- `negc reg1, reg2`, 16 bit (R157). -/
def execNegc16RegReg (r1 : Reg16) (r2 : Reg16) (s : State) : Result := wordRegReg .negc r1 r2 s

/-- `revsbc reg1, reg2`, 16 bit (R155). -/
def execRevsbc16RegReg (r1 : Reg16) (r2 : Reg16) (s : State) : Result := wordRegReg .revsbc r1 r2 s

/-- `and_not reg1, reg2`, 16 bit (R158). -/
def execAndNot16RegReg (r1 : Reg16) (r2 : Reg16) (s : State) : Result := wordRegReg .andNot r1 r2 s

/-- `or_not reg1, reg2`, 16 bit (R159). -/
def execOrNot16RegReg (r1 : Reg16) (r2 : Reg16) (s : State) : Result := wordRegReg .orNot r1 r2 s

/-- `xor_not reg1, reg2`, 16 bit (R160). -/
def execXorNot16RegReg (r1 : Reg16) (r2 : Reg16) (s : State) : Result := wordRegReg .xorNot r1 r2 s

/-- `add reg, [zp]`, 16 bit (R145). -/
def execAdd16RegZp (r : Reg16) (zp : BitVec 7) (s : State) : Result := wordRegZp .add r zp s

/-- `sub reg, [zp]`, 16 bit (R146). -/
def execSub16RegZp (r : Reg16) (zp : BitVec 7) (s : State) : Result := wordRegZp .sub r zp s

/-- `adc reg, [zp]`, 16 bit (R147). -/
def execAdc16RegZp (r : Reg16) (zp : BitVec 7) (s : State) : Result := wordRegZp .adc r zp s

/-- `sbc reg, [zp]`, 16 bit (R148). -/
def execSbc16RegZp (r : Reg16) (zp : BitVec 7) (s : State) : Result := wordRegZp .sbc r zp s

/-- `and reg, [zp]`, 16 bit (R149). -/
def execAnd16RegZp (r : Reg16) (zp : BitVec 7) (s : State) : Result := wordRegZp .and r zp s

/-- `or reg, [zp]`, 16 bit (R150). -/
def execOr16RegZp (r : Reg16) (zp : BitVec 7) (s : State) : Result := wordRegZp .or r zp s

/-- `xor reg, [zp]`, 16 bit (R151). -/
def execXor16RegZp (r : Reg16) (zp : BitVec 7) (s : State) : Result := wordRegZp .xor r zp s

/-- `cmp reg, [zp]`, 16 bit (R152). -/
def execCmp16RegZp (r : Reg16) (zp : BitVec 7) (s : State) : Result := wordCompareZp .sub r zp s

/-- `add [zp], reg`, 16 bit (R145). -/
def execAdd16ZpReg (zp : BitVec 7) (r : Reg16) (s : State) : Result := wordZpReg .add zp r s

/-- `sub [zp], reg`, 16 bit (R146). -/
def execSub16ZpReg (zp : BitVec 7) (r : Reg16) (s : State) : Result := wordZpReg .sub zp r s

/-- `adc [zp], reg`, 16 bit (R147). -/
def execAdc16ZpReg (zp : BitVec 7) (r : Reg16) (s : State) : Result := wordZpReg .adc zp r s

/-- `sbc [zp], reg`, 16 bit (R148). -/
def execSbc16ZpReg (zp : BitVec 7) (r : Reg16) (s : State) : Result := wordZpReg .sbc zp r s

/-- `and [zp], reg`, 16 bit (R149). -/
def execAnd16ZpReg (zp : BitVec 7) (r : Reg16) (s : State) : Result := wordZpReg .and zp r s

/-- `or [zp], reg`, 16 bit (R150). -/
def execOr16ZpReg (zp : BitVec 7) (r : Reg16) (s : State) : Result := wordZpReg .or zp r s

/-- `xor [zp], reg`, 16 bit (R151). -/
def execXor16ZpReg (zp : BitVec 7) (r : Reg16) (s : State) : Result := wordZpReg .xor zp r s

/-- `test reg, [zp]`, 16 bit (R153). -/
def execTest16RegZp (r : Reg16) (zp : BitVec 7) (s : State) : Result := wordCompareZp .and r zp s

/-- `add dest, reg`, 16 bit (R145). -/
def execAdd16DestReg (dst : WordDest) (r : Reg16) (s : State) : Result := wordDestReg .add dst r s

/-- `sub dest, reg`, 16 bit (R146). -/
def execSub16DestReg (dst : WordDest) (r : Reg16) (s : State) : Result := wordDestReg .sub dst r s

/-- `adc dest, reg`, 16 bit (R147). -/
def execAdc16DestReg (dst : WordDest) (r : Reg16) (s : State) : Result := wordDestReg .adc dst r s

/-- `sbc dest, reg`, 16 bit (R148). -/
def execSbc16DestReg (dst : WordDest) (r : Reg16) (s : State) : Result := wordDestReg .sbc dst r s

/-- `and dest, reg`, 16 bit (R149). -/
def execAnd16DestReg (dst : WordDest) (r : Reg16) (s : State) : Result := wordDestReg .and dst r s

/-- `or dest, reg`, 16 bit (R150). -/
def execOr16DestReg (dst : WordDest) (r : Reg16) (s : State) : Result := wordDestReg .or dst r s

/-- `xor dest, reg`, 16 bit (R151). -/
def execXor16DestReg (dst : WordDest) (r : Reg16) (s : State) : Result := wordDestReg .xor dst r s

end Sys2Proof.Machine
end

