-- ==== Sys2Proof/Machine/Binop8.lean ====
section
/-! DEFINITION. The 8-bit binary operations, regular, reverse and alternate, with `cmp` and `test` (42_binop.md). -/

namespace Sys2Proof.Machine

/-- `add reg, src`, 8 bit (R145). -/
def execAdd8RegSrc (r : Reg8) (src : ByteSrc) (s : State) : Result := byteRegSrc .add r src s

/-- `sub reg, src`, 8 bit (R146). -/
def execSub8RegSrc (r : Reg8) (src : ByteSrc) (s : State) : Result := byteRegSrc .sub r src s

/-- `adc reg, src`, 8 bit (R147). -/
def execAdc8RegSrc (r : Reg8) (src : ByteSrc) (s : State) : Result := byteRegSrc .adc r src s

/-- `sbc reg, src`, 8 bit (R148). -/
def execSbc8RegSrc (r : Reg8) (src : ByteSrc) (s : State) : Result := byteRegSrc .sbc r src s

/-- `and reg, src`, 8 bit (R149). -/
def execAnd8RegSrc (r : Reg8) (src : ByteSrc) (s : State) : Result := byteRegSrc .and r src s

/-- `or reg, src`, 8 bit (R150). -/
def execOr8RegSrc (r : Reg8) (src : ByteSrc) (s : State) : Result := byteRegSrc .or r src s

/-- `xor reg, src`, 8 bit (R151). -/
def execXor8RegSrc (r : Reg8) (src : ByteSrc) (s : State) : Result := byteRegSrc .xor r src s

/-- `cmp reg, src`, 8 bit (R152). -/
def execCmp8RegSrc (r : Reg8) (src : ByteSrc) (s : State) : Result := byteCompareSrc .sub r src s

/-- `add reg, imm6`, 8 bit (R145). -/
def execAdd8RegImm (r : Reg8) (imm : BitVec 6) (s : State) : Result := byteRegValue .add r (imm.signExtend 8) s

/-- `revsub reg, imm6`, 8 bit (R154). -/
def execRevsub8RegImm (r : Reg8) (imm : BitVec 6) (s : State) : Result := byteRegValue .revsub r (imm.signExtend 8) s

/-- `adc reg, imm6`, 8 bit (R147). -/
def execAdc8RegImm (r : Reg8) (imm : BitVec 6) (s : State) : Result := byteRegValue .adc r (imm.signExtend 8) s

/-- `revsbc reg, imm6`, 8 bit (R155). -/
def execRevsbc8RegImm (r : Reg8) (imm : BitVec 6) (s : State) : Result := byteRegValue .revsbc r (imm.signExtend 8) s

/-- `and reg, imm6`, 8 bit (R149). -/
def execAnd8RegImm (r : Reg8) (imm : BitVec 6) (s : State) : Result := byteRegValue .and r (imm.signExtend 8) s

/-- `or reg, imm6`, 8 bit (R150). -/
def execOr8RegImm (r : Reg8) (imm : BitVec 6) (s : State) : Result := byteRegValue .or r (imm.signExtend 8) s

/-- `xor reg, imm6`, 8 bit (R151). -/
def execXor8RegImm (r : Reg8) (imm : BitVec 6) (s : State) : Result := byteRegValue .xor r (imm.signExtend 8) s

/-- `cmp reg, imm6`, 8 bit (R152). -/
def execCmp8RegImm (r : Reg8) (imm : BitVec 6) (s : State) : Result := byteCompareValue .sub r (imm.signExtend 8) s

/-- `test reg, src`, 8 bit (R153). -/
def execTest8RegSrc (r : Reg8) (src : ByteSrc) (s : State) : Result := byteCompareSrc .and r src s

/-- `neg reg1, reg2`, 8 bit (R156). -/
def execNeg8RegReg (r1 : Reg8) (r2 : Reg8) (s : State) : Result := byteRegReg .neg r1 r2 s

/-- `revsub reg1, reg2`, 8 bit (R154). -/
def execRevsub8RegReg (r1 : Reg8) (r2 : Reg8) (s : State) : Result := byteRegReg .revsub r1 r2 s

/-- `negc reg1, reg2`, 8 bit (R157). -/
def execNegc8RegReg (r1 : Reg8) (r2 : Reg8) (s : State) : Result := byteRegReg .negc r1 r2 s

/-- `revsbc reg1, reg2`, 8 bit (R155). -/
def execRevsbc8RegReg (r1 : Reg8) (r2 : Reg8) (s : State) : Result := byteRegReg .revsbc r1 r2 s

/-- `and_not reg1, reg2`, 8 bit (R158). -/
def execAndNot8RegReg (r1 : Reg8) (r2 : Reg8) (s : State) : Result := byteRegReg .andNot r1 r2 s

/-- `or_not reg1, reg2`, 8 bit (R159). -/
def execOrNot8RegReg (r1 : Reg8) (r2 : Reg8) (s : State) : Result := byteRegReg .orNot r1 r2 s

/-- `xor_not reg1, reg2`, 8 bit (R160). -/
def execXorNot8RegReg (r1 : Reg8) (r2 : Reg8) (s : State) : Result := byteRegReg .xorNot r1 r2 s

/-- `add reg, [zp]`, 8 bit (R145). -/
def execAdd8RegZp (r : Reg8) (zp : BitVec 7) (s : State) : Result :=
  byteRegValue .add r (s.readByte (zpByteAddr zp)) s

/-- `sub reg, [zp]`, 8 bit (R146). -/
def execSub8RegZp (r : Reg8) (zp : BitVec 7) (s : State) : Result :=
  byteRegValue .sub r (s.readByte (zpByteAddr zp)) s

/-- `adc reg, [zp]`, 8 bit (R147). -/
def execAdc8RegZp (r : Reg8) (zp : BitVec 7) (s : State) : Result :=
  byteRegValue .adc r (s.readByte (zpByteAddr zp)) s

/-- `sbc reg, [zp]`, 8 bit (R148). -/
def execSbc8RegZp (r : Reg8) (zp : BitVec 7) (s : State) : Result :=
  byteRegValue .sbc r (s.readByte (zpByteAddr zp)) s

/-- `and reg, [zp]`, 8 bit (R149). -/
def execAnd8RegZp (r : Reg8) (zp : BitVec 7) (s : State) : Result :=
  byteRegValue .and r (s.readByte (zpByteAddr zp)) s

/-- `or reg, [zp]`, 8 bit (R150). -/
def execOr8RegZp (r : Reg8) (zp : BitVec 7) (s : State) : Result := byteRegValue .or r (s.readByte (zpByteAddr zp)) s

/-- `xor reg, [zp]`, 8 bit (R151). -/
def execXor8RegZp (r : Reg8) (zp : BitVec 7) (s : State) : Result :=
  byteRegValue .xor r (s.readByte (zpByteAddr zp)) s

/-- `cmp reg, [zp]`, 8 bit (R152). -/
def execCmp8RegZp (r : Reg8) (zp : BitVec 7) (s : State) : Result :=
  byteCompareValue .sub r (s.readByte (zpByteAddr zp)) s

/-- `add [zp], reg`, 8 bit (R145). -/
def execAdd8ZpReg (zp : BitVec 7) (r : Reg8) (s : State) : Result := byteZpReg .add zp r s

/-- `sub [zp], reg`, 8 bit (R146). -/
def execSub8ZpReg (zp : BitVec 7) (r : Reg8) (s : State) : Result := byteZpReg .sub zp r s

/-- `adc [zp], reg`, 8 bit (R147). -/
def execAdc8ZpReg (zp : BitVec 7) (r : Reg8) (s : State) : Result := byteZpReg .adc zp r s

/-- `sbc [zp], reg`, 8 bit (R148). -/
def execSbc8ZpReg (zp : BitVec 7) (r : Reg8) (s : State) : Result := byteZpReg .sbc zp r s

/-- `and [zp], reg`, 8 bit (R149). -/
def execAnd8ZpReg (zp : BitVec 7) (r : Reg8) (s : State) : Result := byteZpReg .and zp r s

/-- `or [zp], reg`, 8 bit (R150). -/
def execOr8ZpReg (zp : BitVec 7) (r : Reg8) (s : State) : Result := byteZpReg .or zp r s

/-- `xor [zp], reg`, 8 bit (R151). -/
def execXor8ZpReg (zp : BitVec 7) (r : Reg8) (s : State) : Result := byteZpReg .xor zp r s

/-- `test reg, [zp]`, 8 bit (R153). -/
def execTest8RegZp (r : Reg8) (zp : BitVec 7) (s : State) : Result :=
  byteCompareValue .and r (s.readByte (zpByteAddr zp)) s

/-- `add dest, reg`, 8 bit (R145). -/
def execAdd8DestReg (dst : ByteDest) (r : Reg8) (s : State) : Result := byteDestReg .add dst r s

/-- `sub dest, reg`, 8 bit (R146). -/
def execSub8DestReg (dst : ByteDest) (r : Reg8) (s : State) : Result := byteDestReg .sub dst r s

/-- `adc dest, reg`, 8 bit (R147). -/
def execAdc8DestReg (dst : ByteDest) (r : Reg8) (s : State) : Result := byteDestReg .adc dst r s

/-- `sbc dest, reg`, 8 bit (R148). -/
def execSbc8DestReg (dst : ByteDest) (r : Reg8) (s : State) : Result := byteDestReg .sbc dst r s

/-- `and dest, reg`, 8 bit (R149). -/
def execAnd8DestReg (dst : ByteDest) (r : Reg8) (s : State) : Result := byteDestReg .and dst r s

/-- `or dest, reg`, 8 bit (R150). -/
def execOr8DestReg (dst : ByteDest) (r : Reg8) (s : State) : Result := byteDestReg .or dst r s

/-- `xor dest, reg`, 8 bit (R151). -/
def execXor8DestReg (dst : ByteDest) (r : Reg8) (s : State) : Result := byteDestReg .xor dst r s

end Sys2Proof.Machine
end

