-- ==== Sys2Proof/Machine/Branch.lean ====
section
/-! DEFINITION. Relative branches and the relative call (45_branch.md). -/

namespace Sys2Proof.Machine

/-- `branch always, imm8` (R214). -/
def execBranchAlways (imm : BitVec 8) (s : State) : Result := .next (s.setPc (s.branchTarget imm))

/-- `branch call, imm8` (R215). -/
def execBranchCall (imm : BitVec 8) (s : State) : Result :=
  match s.pushWord (s.npc 1) with
  | .error e => .refused e
  | .ok s1 => .next (s1.setPc (s.branchTarget imm))

/-- `branch z, imm8` (R216). -/
def execBranchZ (imm : BitVec 8) (s : State) : Result := branchIf .z imm s

/-- `branch nz, imm8` (R217). -/
def execBranchNz (imm : BitVec 8) (s : State) : Result := branchIf .nz imm s

/-- `branch s, imm8` (R218). -/
def execBranchS (imm : BitVec 8) (s : State) : Result := branchIf .s imm s

/-- `branch ns, imm8` (R219). -/
def execBranchNs (imm : BitVec 8) (s : State) : Result := branchIf .ns imm s

/-- `branch c, imm8` (R220). -/
def execBranchC (imm : BitVec 8) (s : State) : Result := branchIf .c imm s

/-- `branch nc, imm8` (R221). -/
def execBranchNc (imm : BitVec 8) (s : State) : Result := branchIf .nc imm s

/-- `branch a, imm8` (R222). -/
def execBranchA (imm : BitVec 8) (s : State) : Result := branchIf .a imm s

/-- `branch na, imm8` (R223). -/
def execBranchNa (imm : BitVec 8) (s : State) : Result := branchIf .na imm s

/-- `branch v, imm8` (R224). -/
def execBranchV (imm : BitVec 8) (s : State) : Result := branchIf .v imm s

/-- `branch nv, imm8` (R225). -/
def execBranchNv (imm : BitVec 8) (s : State) : Result := branchIf .nv imm s

/-- `branch g, imm8` (R226). -/
def execBranchG (imm : BitVec 8) (s : State) : Result := branchIf .g imm s

/-- `branch ng, imm8` (R227). -/
def execBranchNg (imm : BitVec 8) (s : State) : Result := branchIf .ng imm s

end Sys2Proof.Machine
end

