-- ==== Sys2Proof/Machine/Jump.lean ====
section
/-! DEFINITION. Absolute jump, call and return (46_jump_call_ret.md). -/

namespace Sys2Proof.Machine

/-- `pc <- src16` (R231). -/
def jumpWordSrc (w : Word) (src : WordSrc) (s : State) : Result :=
  match evalWordSrc w src s with
  | .error e => .refused e
  | .ok (t, s1) => s1.jumpTo t

/-- The operand uses the stack pointer: `[pop]` or `sp` (R110, R232). -/
def usesStackPointer : WordSrc → Bool
  | .pop | .sp => true
  | .reg _ | .ext _ | .imm _ | .mem _ => false

/-- The operand is read, then the address of the next instruction is pushed, then the jump is made (R232). -/
def callWordSrc (w : Word) (src : WordSrc) (s : State) : Result :=
  if usesStackPointer src then .refused .callSpOperand
  else
    match evalWordSrc w src s with
    | .error e => .refused e
    | .ok (t, s1) =>
      match s1.pushWord (s.npc src.words) with
      | .error e => .refused e
      | .ok s2 => s2.jumpTo t

/-- `ret`: `jump [pop]` (R234). -/
def execRet (s : State) : Result := jumpWordSrc (encodeWord .ret) .pop s

/-- `jump src16` (R231). -/
def execJumpSrc (src : WordSrc) (s : State) : Result := jumpWordSrc (encodeWord (.jumpSrc src)) src s

/-- `call src16` (R232). -/
def execCallSrc (src : WordSrc) (s : State) : Result := callWordSrc (encodeWord (.callSrc src)) src s

/-- `jump [zp]` (R233). -/
def execJumpZp (zp : BitVec 7) (s : State) : Result :=
  match s.readWord (zpWordAddr zp) with
  | .error e => .refused e
  | .ok t => s.jumpTo t

end Sys2Proof.Machine
end

