-- ==== Sys2Proof/Machine/Mov.lean ====
section
/-! DEFINITION. `mov`, `not` and `swap` (41_mov_swap.md). -/

namespace Sys2Proof.Machine

/-- `mov reg, imm8`, 8 bit (R123). -/
def execMov8RegImm (r : Reg8) (imm : BitVec 8) (s : State) : Result := .next ((s.setReg8 r imm).advance 1)

/-- `swap [zp], reg`, 8 bit (R129). -/
def execSwap8ZpReg (zp : BitVec 7) (r : Reg8) (s : State) : Result :=
  .next (((s.storeByte (zpByteAddr zp) (s.reg8 r)).setReg8 r (s.readByte (zpByteAddr zp))).advance 1)

/-- `mov reg, src`, 8 bit (R121). -/
def execMov8RegSrc (r : Reg8) (src : ByteSrc) (s : State) : Result := byteMovRegSrc r src s

/-- `not reg1, reg2`, 8 bit (R126). -/
def execNot8RegReg (r1 : Reg8) (r2 : Reg8) (s : State) : Result :=
  .next (((s.setReg8 r1 (~~~(s.reg8 r2))).leaveFlags .not).advance 1)

/-- `swap dest, reg`, 8 bit (R128). -/
def execSwap8DestReg (dst : ByteDest) (r : Reg8) (s : State) : Result := byteSwapDestReg dst r s

/-- `mov reg, [zp]`, 8 bit (R124). -/
def execMov8RegZp (r : Reg8) (zp : BitVec 7) (s : State) : Result :=
  .next ((s.setReg8 r (s.readByte (zpByteAddr zp))).advance 1)

/-- `mov [zp], reg`, 8 bit (R125). -/
def execMov8ZpReg (zp : BitVec 7) (r : Reg8) (s : State) : Result :=
  .next ((s.storeByte (zpByteAddr zp) (s.reg8 r)).advance 1)

/-- `mov dest, reg`, 8 bit (R122). -/
def execMov8DestReg (dst : ByteDest) (r : Reg8) (s : State) : Result := byteMovDestReg dst r s

/-- `mov reg, imm8`, 16 bit (R123). -/
def execMov16RegImm (r : Reg16) (imm : BitVec 8) (s : State) : Result :=
  .next ((s.setReg16 r (imm.signExtend 16)).advance 1)

/-- `swap [zp], reg`, 16 bit (R129). -/
def execSwap16ZpReg (zp : BitVec 7) (r : Reg16) (s : State) : Result :=
  match s.readWord (zpWordAddr zp) with
  | .error e => .refused e
  | .ok t =>
    match s.storeWord (zpWordAddr zp) (s.reg16 r) with
    | .error e => .refused e
    | .ok s1 => .next ((s1.setReg16 r t).advance 1)

/-- `mov reg, src`, 16 bit (R121). -/
def execMov16RegSrc (r : Reg16) (src : WordSrc) (s : State) : Result :=
  wordMovRegSrc (encodeWord (.mov16RegSrc r src)) r src s

/-- `not reg1, reg2`, 16 bit (R126). -/
def execNot16RegReg (r1 : Reg16) (r2 : Reg16) (s : State) : Result :=
  .next (((s.setReg16 r1 (~~~(s.reg16 r2))).leaveFlags .not).advance 1)

/-- `swap dest, reg`, 16 bit (R128). -/
def execSwap16DestReg (dst : WordDest) (r : Reg16) (s : State) : Result := wordSwapDestReg dst r s

/-- `mov reg, [zp]`, 16 bit (R124). -/
def execMov16RegZp (r : Reg16) (zp : BitVec 7) (s : State) : Result :=
  match s.readWord (zpWordAddr zp) with
  | .error e => .refused e
  | .ok v => .next ((s.setReg16 r v).advance 1)

/-- `mov [zp], reg`, 16 bit (R125). -/
def execMov16ZpReg (zp : BitVec 7) (r : Reg16) (s : State) : Result :=
  match s.storeWord (zpWordAddr zp) (s.reg16 r) with
  | .error e => .refused e
  | .ok s1 => .next (s1.advance 1)

/-- `mov dest, reg`, 16 bit (R122). -/
def execMov16DestReg (dst : WordDest) (r : Reg16) (s : State) : Result := wordMovDestReg dst r s

end Sys2Proof.Machine
end

