-- ==== Sys2Proof/Machine/Mul.lean ====
section
/-! DEFINITION. Multiply (44_mul.md). -/

namespace Sys2Proof.Machine

/-- `mul reg, src8`, 8 bit (R202). -/
def execMul8RegSrc8 (r : Reg8) (src : Src8) (s : State) : Result := byteMulSrc8 r src s

/-- `mul reg, imm6`, 8 bit (R203). -/
def execMul8RegImm (r : Reg8) (imm : BitVec 6) (s : State) : Result := .next (byteMul r (imm.setWidth 8) s s 1)

/-- `mul reg, src8`, 16 bit (R202). -/
def execMul16RegSrc8 (r : Reg16) (src : Src8) (s : State) : Result := wordMulSrc8 r src s

/-- `mul reg, imm6`, 16 bit (R203). -/
def execMul16RegImm (r : Reg16) (imm : BitVec 6) (s : State) : Result := .next (wordMul r (imm.setWidth 8) s s 1)

end Sys2Proof.Machine
end

