-- ==== Sys2Proof/Machine/Shift.lean ====
section
/-! DEFINITION. The shifts and rotates (43_shift.md). -/

namespace Sys2Proof.Machine

/-- `ror reg, src8`, 8 bit (R189). -/
def execRor8RegSrc8 (r : Reg8) (src : Src8) (s : State) : Result := byteShiftSrc8 .ror r src s

/-- `sar reg, src8`, 8 bit (R187). -/
def execSar8RegSrc8 (r : Reg8) (src : Src8) (s : State) : Result := byteShiftSrc8 .sar r src s

/-- `shr reg, src8`, 8 bit (R186). -/
def execShr8RegSrc8 (r : Reg8) (src : Src8) (s : State) : Result := byteShiftSrc8 .shr r src s

/-- `shl reg, src8`, 8 bit (R185). -/
def execShl8RegSrc8 (r : Reg8) (src : Src8) (s : State) : Result := byteShiftSrc8 .shl r src s

/-- `rol reg, src8`, 8 bit (R188). -/
def execRol8RegSrc8 (r : Reg8) (src : Src8) (s : State) : Result := byteShiftSrc8 .rol r src s

/-- `ror reg, src8`, 16 bit (R189). -/
def execRor16RegSrc8 (r : Reg16) (src : Src8) (s : State) : Result := wordShiftSrc8 .ror r src s

/-- `sar reg, src8`, 16 bit (R187). -/
def execSar16RegSrc8 (r : Reg16) (src : Src8) (s : State) : Result := wordShiftSrc8 .sar r src s

/-- `shr reg, src8`, 16 bit (R186). -/
def execShr16RegSrc8 (r : Reg16) (src : Src8) (s : State) : Result := wordShiftSrc8 .shr r src s

/-- `shl reg, src8`, 16 bit (R185). -/
def execShl16RegSrc8 (r : Reg16) (src : Src8) (s : State) : Result := wordShiftSrc8 .shl r src s

/-- `rol reg, src8`, 16 bit (R188). -/
def execRol16RegSrc8 (r : Reg16) (src : Src8) (s : State) : Result := wordShiftSrc8 .rol r src s

/-- `ror reg, imm4`, 8 bit (R189). -/
def execRor8RegImm (r : Reg8) (imm : BitVec 4) (s : State) : Result := byteShiftImm .ror r imm s

/-- `sar reg, imm4`, 8 bit (R187). -/
def execSar8RegImm (r : Reg8) (imm : BitVec 4) (s : State) : Result := byteShiftImm .sar r imm s

/-- `shr reg, imm4`, 8 bit (R186). -/
def execShr8RegImm (r : Reg8) (imm : BitVec 4) (s : State) : Result := byteShiftImm .shr r imm s

/-- `shl reg, imm4`, 8 bit (R185). -/
def execShl8RegImm (r : Reg8) (imm : BitVec 4) (s : State) : Result := byteShiftImm .shl r imm s

/-- `ror reg, imm4`, 16 bit (R189). -/
def execRor16RegImm (r : Reg16) (imm : BitVec 4) (s : State) : Result := wordShiftImm .ror r imm s

/-- `sar reg, imm4`, 16 bit (R187). -/
def execSar16RegImm (r : Reg16) (imm : BitVec 4) (s : State) : Result := wordShiftImm .sar r imm s

/-- `shr reg, imm4`, 16 bit (R186). -/
def execShr16RegImm (r : Reg16) (imm : BitVec 4) (s : State) : Result := wordShiftImm .shr r imm s

/-- `shl reg, imm4`, 16 bit (R185). -/
def execShl16RegImm (r : Reg16) (imm : BitVec 4) (s : State) : Result := wordShiftImm .shl r imm s

end Sys2Proof.Machine
end

