-- ==== Sys2Proof/Machine/Unassigned.lean ====
section
/-! DEFINITION. The rows of the opcode table that no instruction has: the instruction-level holes of R82. The spec
gives them no effect, and each is refused. -/

namespace Sys2Proof.Machine

/-- `1e0011rr11iiiiii`: no table gives this word a meaning (R82). -/
def execUnassignedShift8Op1 (_r : Reg8) (_code : BitVec 6) (_s : State) : Result := .refused .unassignedEncoding

/-- `1e0111rr11iiiiii`: no table gives this word a meaning (R82). -/
def execUnassignedShift8Op3 (_r : Reg8) (_code : BitVec 6) (_s : State) : Result := .refused .unassignedEncoding

/-- `1e1011rr11iiiiii`: no table gives this word a meaning (R82). -/
def execUnassignedShift8Op5 (_r : Reg8) (_code : BitVec 6) (_s : State) : Result := .refused .unassignedEncoding

/-- `010011rr11iiiiii`: no table gives this word a meaning (R82). -/
def execUnassignedShift16Op1 (_r : Reg16) (_code : BitVec 6) (_s : State) : Result := .refused .unassignedEncoding

/-- `010111rr11iiiiii`: no table gives this word a meaning (R82). -/
def execUnassignedShift16Op3 (_r : Reg16) (_code : BitVec 6) (_s : State) : Result := .refused .unassignedEncoding

/-- `011011rr11iiiiii`: no table gives this word a meaning (R82). -/
def execUnassignedShift16Op5 (_r : Reg16) (_code : BitVec 6) (_s : State) : Result := .refused .unassignedEncoding

/-- `001100000ziiiiii`: no table gives this word a meaning (R82). -/
def execUnassignedMul (_data : BitVec 7) (_s : State) : Result := .refused .unassignedEncoding

/-- `00000010bbbbbbbb`: no table gives this word a meaning (R82). -/
def execUnassignedBranch2 (_imm : BitVec 8) (_s : State) : Result := .refused .unassignedEncoding

/-- `00000011bbbbbbbb`: no table gives this word a meaning (R82). -/
def execUnassignedBranch3 (_imm : BitVec 8) (_s : State) : Result := .refused .unassignedEncoding

end Sys2Proof.Machine
end

