-- ==== Sys2Proof/Machine/Dispatch.lean ====
section
/-! DEFINITION. What each instruction does: one arm per constructor, each one call of its meaning. -/

namespace Sys2Proof.Machine

def exec (i : Instr) (s : State) : Host.Outcome State Fault Refusal :=
  match i with
  | .add8RegSrc r src => Sys2Proof.Machine.execAdd8RegSrc r src s
  | .sub8RegSrc r src => Sys2Proof.Machine.execSub8RegSrc r src s
  | .adc8RegSrc r src => Sys2Proof.Machine.execAdc8RegSrc r src s
  | .sbc8RegSrc r src => Sys2Proof.Machine.execSbc8RegSrc r src s
  | .and8RegSrc r src => Sys2Proof.Machine.execAnd8RegSrc r src s
  | .or8RegSrc r src => Sys2Proof.Machine.execOr8RegSrc r src s
  | .xor8RegSrc r src => Sys2Proof.Machine.execXor8RegSrc r src s
  | .cmp8RegSrc r src => Sys2Proof.Machine.execCmp8RegSrc r src s
  | .add8RegImm r imm => Sys2Proof.Machine.execAdd8RegImm r imm s
  | .revsub8RegImm r imm => Sys2Proof.Machine.execRevsub8RegImm r imm s
  | .adc8RegImm r imm => Sys2Proof.Machine.execAdc8RegImm r imm s
  | .revsbc8RegImm r imm => Sys2Proof.Machine.execRevsbc8RegImm r imm s
  | .and8RegImm r imm => Sys2Proof.Machine.execAnd8RegImm r imm s
  | .or8RegImm r imm => Sys2Proof.Machine.execOr8RegImm r imm s
  | .xor8RegImm r imm => Sys2Proof.Machine.execXor8RegImm r imm s
  | .cmp8RegImm r imm => Sys2Proof.Machine.execCmp8RegImm r imm s
  | .test8RegSrc r src => Sys2Proof.Machine.execTest8RegSrc r src s
  | .neg8RegReg r1 r2 => Sys2Proof.Machine.execNeg8RegReg r1 r2 s
  | .revsub8RegReg r1 r2 => Sys2Proof.Machine.execRevsub8RegReg r1 r2 s
  | .negc8RegReg r1 r2 => Sys2Proof.Machine.execNegc8RegReg r1 r2 s
  | .revsbc8RegReg r1 r2 => Sys2Proof.Machine.execRevsbc8RegReg r1 r2 s
  | .andNot8RegReg r1 r2 => Sys2Proof.Machine.execAndNot8RegReg r1 r2 s
  | .orNot8RegReg r1 r2 => Sys2Proof.Machine.execOrNot8RegReg r1 r2 s
  | .xorNot8RegReg r1 r2 => Sys2Proof.Machine.execXorNot8RegReg r1 r2 s
  | .ror8RegSrc8 r src => Sys2Proof.Machine.execRor8RegSrc8 r src s
  | .sar8RegSrc8 r src => Sys2Proof.Machine.execSar8RegSrc8 r src s
  | .shr8RegSrc8 r src => Sys2Proof.Machine.execShr8RegSrc8 r src s
  | .shl8RegSrc8 r src => Sys2Proof.Machine.execShl8RegSrc8 r src s
  | .rol8RegSrc8 r src => Sys2Proof.Machine.execRol8RegSrc8 r src s
  | .unassignedShift8Op1 r code => Sys2Proof.Machine.execUnassignedShift8Op1 r code s
  | .unassignedShift8Op3 r code => Sys2Proof.Machine.execUnassignedShift8Op3 r code s
  | .unassignedShift8Op5 r code => Sys2Proof.Machine.execUnassignedShift8Op5 r code s
  | .add8RegZp r zp => Sys2Proof.Machine.execAdd8RegZp r zp s
  | .sub8RegZp r zp => Sys2Proof.Machine.execSub8RegZp r zp s
  | .adc8RegZp r zp => Sys2Proof.Machine.execAdc8RegZp r zp s
  | .sbc8RegZp r zp => Sys2Proof.Machine.execSbc8RegZp r zp s
  | .and8RegZp r zp => Sys2Proof.Machine.execAnd8RegZp r zp s
  | .or8RegZp r zp => Sys2Proof.Machine.execOr8RegZp r zp s
  | .xor8RegZp r zp => Sys2Proof.Machine.execXor8RegZp r zp s
  | .cmp8RegZp r zp => Sys2Proof.Machine.execCmp8RegZp r zp s
  | .add8ZpReg zp r => Sys2Proof.Machine.execAdd8ZpReg zp r s
  | .sub8ZpReg zp r => Sys2Proof.Machine.execSub8ZpReg zp r s
  | .adc8ZpReg zp r => Sys2Proof.Machine.execAdc8ZpReg zp r s
  | .sbc8ZpReg zp r => Sys2Proof.Machine.execSbc8ZpReg zp r s
  | .and8ZpReg zp r => Sys2Proof.Machine.execAnd8ZpReg zp r s
  | .or8ZpReg zp r => Sys2Proof.Machine.execOr8ZpReg zp r s
  | .xor8ZpReg zp r => Sys2Proof.Machine.execXor8ZpReg zp r s
  | .test8RegZp r zp => Sys2Proof.Machine.execTest8RegZp r zp s
  | .add8DestReg dst r => Sys2Proof.Machine.execAdd8DestReg dst r s
  | .sub8DestReg dst r => Sys2Proof.Machine.execSub8DestReg dst r s
  | .adc8DestReg dst r => Sys2Proof.Machine.execAdc8DestReg dst r s
  | .sbc8DestReg dst r => Sys2Proof.Machine.execSbc8DestReg dst r s
  | .and8DestReg dst r => Sys2Proof.Machine.execAnd8DestReg dst r s
  | .or8DestReg dst r => Sys2Proof.Machine.execOr8DestReg dst r s
  | .xor8DestReg dst r => Sys2Proof.Machine.execXor8DestReg dst r s
  | .add16RegSrc r src => Sys2Proof.Machine.execAdd16RegSrc r src s
  | .sub16RegSrc r src => Sys2Proof.Machine.execSub16RegSrc r src s
  | .adc16RegSrc r src => Sys2Proof.Machine.execAdc16RegSrc r src s
  | .sbc16RegSrc r src => Sys2Proof.Machine.execSbc16RegSrc r src s
  | .and16RegSrc r src => Sys2Proof.Machine.execAnd16RegSrc r src s
  | .or16RegSrc r src => Sys2Proof.Machine.execOr16RegSrc r src s
  | .xor16RegSrc r src => Sys2Proof.Machine.execXor16RegSrc r src s
  | .cmp16RegSrc r src => Sys2Proof.Machine.execCmp16RegSrc r src s
  | .add16RegImm r imm => Sys2Proof.Machine.execAdd16RegImm r imm s
  | .revsub16RegImm r imm => Sys2Proof.Machine.execRevsub16RegImm r imm s
  | .adc16RegImm r imm => Sys2Proof.Machine.execAdc16RegImm r imm s
  | .revsbc16RegImm r imm => Sys2Proof.Machine.execRevsbc16RegImm r imm s
  | .and16RegImm r imm => Sys2Proof.Machine.execAnd16RegImm r imm s
  | .or16RegImm r imm => Sys2Proof.Machine.execOr16RegImm r imm s
  | .xor16RegImm r imm => Sys2Proof.Machine.execXor16RegImm r imm s
  | .cmp16RegImm r imm => Sys2Proof.Machine.execCmp16RegImm r imm s
  | .test16RegSrc r src => Sys2Proof.Machine.execTest16RegSrc r src s
  | .neg16RegReg r1 r2 => Sys2Proof.Machine.execNeg16RegReg r1 r2 s
  | .revsub16RegReg r1 r2 => Sys2Proof.Machine.execRevsub16RegReg r1 r2 s
  | .negc16RegReg r1 r2 => Sys2Proof.Machine.execNegc16RegReg r1 r2 s
  | .revsbc16RegReg r1 r2 => Sys2Proof.Machine.execRevsbc16RegReg r1 r2 s
  | .andNot16RegReg r1 r2 => Sys2Proof.Machine.execAndNot16RegReg r1 r2 s
  | .orNot16RegReg r1 r2 => Sys2Proof.Machine.execOrNot16RegReg r1 r2 s
  | .xorNot16RegReg r1 r2 => Sys2Proof.Machine.execXorNot16RegReg r1 r2 s
  | .ror16RegSrc8 r src => Sys2Proof.Machine.execRor16RegSrc8 r src s
  | .sar16RegSrc8 r src => Sys2Proof.Machine.execSar16RegSrc8 r src s
  | .shr16RegSrc8 r src => Sys2Proof.Machine.execShr16RegSrc8 r src s
  | .shl16RegSrc8 r src => Sys2Proof.Machine.execShl16RegSrc8 r src s
  | .rol16RegSrc8 r src => Sys2Proof.Machine.execRol16RegSrc8 r src s
  | .unassignedShift16Op1 r code => Sys2Proof.Machine.execUnassignedShift16Op1 r code s
  | .unassignedShift16Op3 r code => Sys2Proof.Machine.execUnassignedShift16Op3 r code s
  | .unassignedShift16Op5 r code => Sys2Proof.Machine.execUnassignedShift16Op5 r code s
  | .add16RegZp r zp => Sys2Proof.Machine.execAdd16RegZp r zp s
  | .sub16RegZp r zp => Sys2Proof.Machine.execSub16RegZp r zp s
  | .adc16RegZp r zp => Sys2Proof.Machine.execAdc16RegZp r zp s
  | .sbc16RegZp r zp => Sys2Proof.Machine.execSbc16RegZp r zp s
  | .and16RegZp r zp => Sys2Proof.Machine.execAnd16RegZp r zp s
  | .or16RegZp r zp => Sys2Proof.Machine.execOr16RegZp r zp s
  | .xor16RegZp r zp => Sys2Proof.Machine.execXor16RegZp r zp s
  | .cmp16RegZp r zp => Sys2Proof.Machine.execCmp16RegZp r zp s
  | .add16ZpReg zp r => Sys2Proof.Machine.execAdd16ZpReg zp r s
  | .sub16ZpReg zp r => Sys2Proof.Machine.execSub16ZpReg zp r s
  | .adc16ZpReg zp r => Sys2Proof.Machine.execAdc16ZpReg zp r s
  | .sbc16ZpReg zp r => Sys2Proof.Machine.execSbc16ZpReg zp r s
  | .and16ZpReg zp r => Sys2Proof.Machine.execAnd16ZpReg zp r s
  | .or16ZpReg zp r => Sys2Proof.Machine.execOr16ZpReg zp r s
  | .xor16ZpReg zp r => Sys2Proof.Machine.execXor16ZpReg zp r s
  | .test16RegZp r zp => Sys2Proof.Machine.execTest16RegZp r zp s
  | .add16DestReg dst r => Sys2Proof.Machine.execAdd16DestReg dst r s
  | .sub16DestReg dst r => Sys2Proof.Machine.execSub16DestReg dst r s
  | .adc16DestReg dst r => Sys2Proof.Machine.execAdc16DestReg dst r s
  | .sbc16DestReg dst r => Sys2Proof.Machine.execSbc16DestReg dst r s
  | .and16DestReg dst r => Sys2Proof.Machine.execAnd16DestReg dst r s
  | .or16DestReg dst r => Sys2Proof.Machine.execOr16DestReg dst r s
  | .xor16DestReg dst r => Sys2Proof.Machine.execXor16DestReg dst r s
  | .ret => Sys2Proof.Machine.execRet s
  | .jumpSrc src => Sys2Proof.Machine.execJumpSrc src s
  | .callSrc src => Sys2Proof.Machine.execCallSrc src s
  | .unassignedMul data => Sys2Proof.Machine.execUnassignedMul data s
  | .mov8RegImm r imm => Sys2Proof.Machine.execMov8RegImm r imm s
  | .swap8ZpReg zp r => Sys2Proof.Machine.execSwap8ZpReg zp r s
  | .mov8RegSrc r src => Sys2Proof.Machine.execMov8RegSrc r src s
  | .ror8RegImm r imm => Sys2Proof.Machine.execRor8RegImm r imm s
  | .sar8RegImm r imm => Sys2Proof.Machine.execSar8RegImm r imm s
  | .shr8RegImm r imm => Sys2Proof.Machine.execShr8RegImm r imm s
  | .shl8RegImm r imm => Sys2Proof.Machine.execShl8RegImm r imm s
  | .not8RegReg r1 r2 => Sys2Proof.Machine.execNot8RegReg r1 r2 s
  | .swap8DestReg dst r => Sys2Proof.Machine.execSwap8DestReg dst r s
  | .mov8RegZp r zp => Sys2Proof.Machine.execMov8RegZp r zp s
  | .mov8ZpReg zp r => Sys2Proof.Machine.execMov8ZpReg zp r s
  | .mul8RegSrc8 r src => Sys2Proof.Machine.execMul8RegSrc8 r src s
  | .mul8RegImm r imm => Sys2Proof.Machine.execMul8RegImm r imm s
  | .mov8DestReg dst r => Sys2Proof.Machine.execMov8DestReg dst r s
  | .jumpZp zp => Sys2Proof.Machine.execJumpZp zp s
  | .mov16RegImm r imm => Sys2Proof.Machine.execMov16RegImm r imm s
  | .swap16ZpReg zp r => Sys2Proof.Machine.execSwap16ZpReg zp r s
  | .mov16RegSrc r src => Sys2Proof.Machine.execMov16RegSrc r src s
  | .ror16RegImm r imm => Sys2Proof.Machine.execRor16RegImm r imm s
  | .sar16RegImm r imm => Sys2Proof.Machine.execSar16RegImm r imm s
  | .shr16RegImm r imm => Sys2Proof.Machine.execShr16RegImm r imm s
  | .shl16RegImm r imm => Sys2Proof.Machine.execShl16RegImm r imm s
  | .not16RegReg r1 r2 => Sys2Proof.Machine.execNot16RegReg r1 r2 s
  | .swap16DestReg dst r => Sys2Proof.Machine.execSwap16DestReg dst r s
  | .mov16RegZp r zp => Sys2Proof.Machine.execMov16RegZp r zp s
  | .mov16ZpReg zp r => Sys2Proof.Machine.execMov16ZpReg zp r s
  | .mul16RegSrc8 r src => Sys2Proof.Machine.execMul16RegSrc8 r src s
  | .mul16RegImm r imm => Sys2Proof.Machine.execMul16RegImm r imm s
  | .mov16DestReg dst r => Sys2Proof.Machine.execMov16DestReg dst r s
  | .branchAlways imm => Sys2Proof.Machine.execBranchAlways imm s
  | .branchCall imm => Sys2Proof.Machine.execBranchCall imm s
  | .unassignedBranch2 imm => Sys2Proof.Machine.execUnassignedBranch2 imm s
  | .unassignedBranch3 imm => Sys2Proof.Machine.execUnassignedBranch3 imm s
  | .branchZ imm => Sys2Proof.Machine.execBranchZ imm s
  | .branchNz imm => Sys2Proof.Machine.execBranchNz imm s
  | .branchS imm => Sys2Proof.Machine.execBranchS imm s
  | .branchNs imm => Sys2Proof.Machine.execBranchNs imm s
  | .branchC imm => Sys2Proof.Machine.execBranchC imm s
  | .branchNc imm => Sys2Proof.Machine.execBranchNc imm s
  | .branchA imm => Sys2Proof.Machine.execBranchA imm s
  | .branchNa imm => Sys2Proof.Machine.execBranchNa imm s
  | .branchV imm => Sys2Proof.Machine.execBranchV imm s
  | .branchNv imm => Sys2Proof.Machine.execBranchNv imm s
  | .branchG imm => Sys2Proof.Machine.execBranchG imm s
  | .branchNg imm => Sys2Proof.Machine.execBranchNg imm s

end Sys2Proof.Machine
end

