-- ==== Sys2Proof/Machine/Fetch.lean ====
section
/-! DEFINITION. Instruction fetch (20_memory.md R45, R46, R52; 10_state.md R21). -/

namespace Sys2Proof.Machine

/-- One word of the program text at an address below 0xffff; refused where an instruction has stored to one
of its bytes (R45, R52). -/
def fetchWord (s : State) (a : Word) : Except Refusal Word :=
  if s.wasStored a || s.wasStored (a + 1) then .error .selfModifying
  else .ok (wordOfBytes (s.readByte a) (s.readByte (a + 1)))

/-- The instruction at `pc`. The first word tells whether there is a second; the order of the refusals is
that of R253. -/
def fetch (s : State) : Except Refusal Instr :=
  if s.pc.getLsbD 0 then .error .oddPc
  else
    match fetchWord s s.pc with
    | .error e => .error e
    | .ok w =>
      match decodeWords w 0 with
      | none => .error .unassignedEncoding
      | some i =>
        if i.words = 1 then .ok i
        else if 65536 < s.pc.toNat + 2 * i.words then .error .fetchWrap
        else
          match fetchWord s (s.pc + 2) with
          | .error e => .error e
          | .ok imm =>
            match decodeWords w imm with
            | none => .error .unassignedEncoding
            | some j => .ok j

end Sys2Proof.Machine
end

