-- ==== Sys2Proof/Machine/Step.lean ====
section
/-! DEFINITION. One step: fetch and decode the instruction at `pc`, and run it. The hardware has no exception,
interrupt or other input (60_exceptions.md R240, R242), so nothing else can happen in a step. -/

namespace Sys2Proof.Machine

/-- One step of the machine (R252, R273). -/
def step (s : State) : Host.Outcome State Fault Refusal :=
  match fetch s with
  | .error e => .refused e
  | .ok i => exec i s

/-- The state with an instruction's words loaded at `pc` from outside the machine (log 11). -/
def State.withFetchWord (s : State) (nbits w : Nat) : State :=
  s.load s.pc (bytesOfWords (tableWords nbits w).1 (tableWords nbits w).2)

end Sys2Proof.Machine
end

