-- ==== Sys2Proof/Safety.lean ====
section
/-! DEFINITION. The terms that claims use: the invariant of the machine, what "answers a next state" means, the
spec's own formulas for results and flags (written as arithmetic, apart from the functions the meanings call),
and what an instruction changes and leaves alone. -/

namespace Sys2Proof.Machine

/-! ### The invariant -/

/-- Memory and the set of stored addresses are in canonical form, and `pc` is even (R21: reset and branches
preserve evenness, and an odd jump target is refused). -/
def Invariant (s : State) : Prop :=
  s.mem.wf = true ∧ addrsWf s.stored = true ∧ s.pc.getLsbD 0 = false

/-- The instruction answers a next state, and that state satisfies `P`. -/
def Answers (r : Result) (P : State → Prop) : Prop := ∃ t, r = .next t ∧ P t

/-! ### Results and flags of the binary operations, as the source words them (R140 to R143) -/

/-- The carry as a number. -/
def carryNum (f : Flags) : Nat := f.c.toNat

/-- The result, modulo `2^W`: the source's definition of each operation (R140). -/
def specResult {w : Nat} (op : BinOp) (d s : BitVec w) (f : Flags) : BitVec w :=
  match op with
  | .add => d + s
  | .sub => d - s
  | .adc => d + s + BitVec.ofNat w (carryNum f)
  | .sbc => d - s + BitVec.ofNat w (carryNum f) - 1
  | .and => d &&& s
  | .or => d ||| s
  | .xor => d ^^^ s
  | .revsub => s - d
  | .revsbc => s - d + BitVec.ofNat w (carryNum f) - 1
  | .neg => -s
  | .negc => -s + BitVec.ofNat w (carryNum f) - 1
  | .andNot => d &&& ~~~s
  | .orNot => d ||| ~~~s
  | .xorNot => d ^^^ ~~~s

/-- The carry: of a sum, that it does not fit; of a subtraction, that nothing is borrowed. The logic
operations leave it (R141, R143). -/
def specCarry {w : Nat} (op : BinOp) (d s : BitVec w) (f : Flags) : Bool :=
  match op with
  | .add => decide (2 ^ w ≤ d.toNat + s.toNat)
  | .adc => decide (2 ^ w ≤ d.toNat + s.toNat + carryNum f)
  | .sub => decide (s.toNat ≤ d.toNat)
  | .sbc => decide (s.toNat + 1 ≤ d.toNat + carryNum f)
  | .revsub => decide (d.toNat ≤ s.toNat)
  | .revsbc => decide (d.toNat + 1 ≤ s.toNat + carryNum f)
  | .neg => decide (s.toNat = 0)
  | .negc => decide (s.toNat + 1 ≤ carryNum f)
  | .and | .or | .xor | .andNot | .orNot | .xorNot => f.c

/-- The signed carry: that the exact signed result is at least 0. The logic operations leave it (R142, R143). -/
def specSignedCarry {w : Nat} (op : BinOp) (d s : BitVec w) (f : Flags) : Bool :=
  match op with
  | .add => decide (0 ≤ d.toInt + s.toInt)
  | .adc => decide (0 ≤ d.toInt + s.toInt + carryNum f)
  | .sub => decide (s.toInt ≤ d.toInt)
  | .sbc => decide (s.toInt + 1 ≤ d.toInt + carryNum f)
  | .revsub => decide (d.toInt ≤ s.toInt)
  | .revsbc => decide (d.toInt + 1 ≤ s.toInt + carryNum f)
  | .neg => decide (s.toInt ≤ 0)
  | .negc => decide (s.toInt + 1 ≤ carryNum f)
  | .and | .or | .xor | .andNot | .orNot | .xorNot => f.v

/-- The flags after a binary operation (R141 to R143). -/
def specFlags {w : Nat} (op : BinOp) (d s : BitVec w) (f : Flags) : Flags where
  z := decide (specResult op d s f = 0)
  s := (specResult op d s f).msb
  v := specSignedCarry op d s f
  c := specCarry op d s f

/-! ### Conditions after a comparison (R212) -/

/-- What the conditions other than `always` and `call` say, by their names, of the two numbers that were compared: the
column "after `cmp x, y` means" of R212. -/
def ConditionsMean {w : Nat} (x y : BitVec w) (f : Flags) : Prop :=
  (Cond.z.holds f = true ↔ x = y) ∧ (Cond.nz.holds f = true ↔ x ≠ y) ∧
    (Cond.s.holds f = true ↔ (x - y).msb = true) ∧ (Cond.ns.holds f = true ↔ (x - y).msb = false) ∧
    (Cond.c.holds f = true ↔ y.toNat ≤ x.toNat) ∧ (Cond.nc.holds f = true ↔ x.toNat < y.toNat) ∧
    (Cond.a.holds f = true ↔ y.toNat < x.toNat) ∧ (Cond.na.holds f = true ↔ x.toNat ≤ y.toNat) ∧
    (Cond.v.holds f = true ↔ y.toInt ≤ x.toInt) ∧ (Cond.nv.holds f = true ↔ x.toInt < y.toInt) ∧
    (Cond.g.holds f = true ↔ y.toInt < x.toInt) ∧ (Cond.ng.holds f = true ↔ x.toInt ≤ y.toInt)

/-! ### Results of shifts (R182, R185 to R189) -/

/-- The effective count of an 8-bit shift with raw count `q` (R182). -/
def specCount8 (op : ShiftOp) (q : Byte) : Nat :=
  match op with
  | .shr | .sar => q.toNat % 16
  | .shl | .rol | .ror => q.toNat % 8

/-- The result of a shift by the effective count `k`, as a number (R185 to R189). -/
def specShift {w : Nat} (op : ShiftOp) (x : BitVec w) (k : Nat) : BitVec w :=
  match op with
  | .shl => BitVec.ofNat w (x.toNat * 2 ^ k)
  | .shr => BitVec.ofNat w (x.toNat / 2 ^ k)
  | .sar => BitVec.ofInt w (x.toInt / 2 ^ k)
  | .rol => if k = 0 then x else BitVec.ofNat w ((x.toNat * 2 ^ k) % 2 ^ w ||| x.toNat / 2 ^ (w - k))
  | .ror => if k = 0 then x else BitVec.ofNat w (x.toNat / 2 ^ k ||| (x.toNat * 2 ^ (w - k)) % 2 ^ w)

/-! ### What changes and what does not -/

/-- `pc` is the address of the next instruction, `words` further on (R11, R21). -/
def Advances (s t : State) (words : Nat) : Prop := t.pc = s.pc + BitVec.ofNat 16 (2 * words)

/-- Every byte of memory is as before, and no address is newly stored to. -/
def KeepsMemory (s t : State) : Prop := t.mem = s.mem ∧ t.stored = s.stored

/-- All general registers are as in the other state. -/
def SameRegs (s t : State) : Prop := ∀ q, t.reg8 q = s.reg8 q

/-- Register `r` holds `v`; the other seven are as in `s`. -/
def SetsReg8 (s t : State) (r : Reg8) (v : Byte) : Prop := t.reg8 r = v ∧ ∀ q, q ≠ r → t.reg8 q = s.reg8 q

/-- Pair `k` holds `v`; the six registers outside it are as in `s`. -/
def SetsReg16 (s t : State) (k : Reg16) (v : Word) : Prop := t.reg16 k = v ∧ ∀ q : Reg8, q.pair ≠ k → t.reg8 q = s.reg8 q

/-- The byte at `a` is `v`, every other byte of memory is as before, and `a` joins the stored addresses. -/
def StoresByte (s t : State) (a : Word) (v : Byte) : Prop :=
  t.readByte a = v ∧ (∀ b, b ≠ a.toNat → t.mem.read b = s.mem.read b) ∧ ∀ b, b ∈ t.stored ↔ b = a.toNat ∨ b ∈ s.stored

/-- The low byte of `v` is at `a` and the high byte at `a + 1`, every other byte of memory is as before, and the
two addresses join the stored ones. -/
def StoresWord (s t : State) (a : Word) (v : Word) : Prop :=
  t.readByte a = loByte v ∧ t.readByte (a + 1) = hiByte v ∧
    (∀ b, b ≠ a.toNat → b ≠ a.toNat + 1 → t.mem.read b = s.mem.read b) ∧
    ∀ b, b ∈ t.stored ↔ b = a.toNat ∨ b = a.toNat + 1 ∨ b ∈ s.stored

/-- An instruction with a byte register as destination: `s1` is the state after its operand's own side effects. -/
def ByteRegOutcome (s s1 : State) (r : Reg8) (v : Byte) (f : Flags) (words : Nat) (t : State) : Prop :=
  SetsReg8 s1 t r v ∧ t.flags = f ∧ Advances s t words ∧ t.p = s1.p ∧ t.draws = s1.draws ∧ KeepsMemory s t

/-- As `ByteRegOutcome`, for a pair. -/
def WordRegOutcome (s s1 : State) (r : Reg16) (v : Word) (f : Flags) (words : Nat) (t : State) : Prop :=
  SetsReg16 s1 t r v ∧ t.flags = f ∧ Advances s t words ∧ t.p = s1.p ∧ t.draws = s1.draws ∧ KeepsMemory s t

/-- An instruction that writes only the flags. -/
def FlagsOutcome (s s1 : State) (f : Flags) (words : Nat) (t : State) : Prop :=
  SameRegs s1 t ∧ t.flags = f ∧ Advances s t words ∧ t.p = s1.p ∧ t.draws = s1.draws ∧ KeepsMemory s t

/-- An instruction that writes one byte to a location: a register, `flags`, `p`, or a byte of memory; `f` are the
flags it leaves where the location is not `flags` itself. -/
def ByteDestOutcome (s s1 : State) (loc : ByteLoc) (v : Byte) (f : Flags) (words : Nat) (t : State) : Prop :=
  Advances s t words ∧ t.draws = s1.draws ∧
    match loc with
    | .reg r => SetsReg8 s1 t r v ∧ t.p = s1.p ∧ t.flags = f ∧ KeepsMemory s t
    | .flags => t.flags = flagsOfBits (v.extractLsb' 0 4) ∧ SameRegs s1 t ∧ t.p = s1.p ∧ KeepsMemory s t
    | .sp => t.p = v ∧ SameRegs s1 t ∧ t.flags = f ∧ KeepsMemory s t
    | .mem a => StoresByte s t a v ∧ SameRegs s1 t ∧ t.p = s1.p ∧ t.flags = f

/-- An instruction that writes one word to a location: a pair, `sp` (of which the low byte is kept), or two bytes of
memory. -/
def WordDestOutcome (s s1 : State) (loc : WordLoc) (v : Word) (f : Flags) (words : Nat) (t : State) : Prop :=
  Advances s t words ∧ t.draws = s1.draws ∧
    match loc with
    | .reg k => SetsReg16 s1 t k v ∧ t.p = s1.p ∧ t.flags = f ∧ KeepsMemory s t
    | .sp => t.p = loByte v ∧ SameRegs s1 t ∧ t.flags = f ∧ KeepsMemory s t
    | .mem a => StoresWord s t a v ∧ SameRegs s1 t ∧ t.p = s1.p ∧ t.flags = f

/-- A transfer of control that writes nothing but `pc`, and what its operand's own side effects wrote. -/
def PcOutcome (s s1 : State) (target : Word) (t : State) : Prop :=
  t.pc = target ∧ SameRegs s1 t ∧ t.p = s1.p ∧ t.flags = s.flags ∧ t.draws = s1.draws ∧ KeepsMemory s t

/-- A location is not the last byte of the address space, where a word access is refused (R43). -/
def wordLocOk : WordLoc → Prop
  | .mem a => a ≠ 0xffff
  | .reg _ | .sp => True

/-- The byte in a location before the instruction; for `flags`, with the arbitrary upper half (R25). -/
def byteLocValue (loc : ByteLoc) (s : State) : Byte :=
  match loc with
  | .reg r => s.reg8 r
  | .flags => s.flagsByte
  | .sp => s.p
  | .mem a => s.readByte a

/-- The word in a location before the instruction. -/
def wordLocValue (loc : WordLoc) (s : State) : Word :=
  match loc with
  | .reg k => s.reg16 k
  | .sp => joinBytes 1 s.p
  | .mem a => joinBytes (s.readByte (a + 1)) (s.readByte a)

/-! ### What an operand's own side effects are -/

/-- Only the arbitrary values, `p` and the general registers can differ. -/
def KeepsRest (s t : State) : Prop := t.pc = s.pc ∧ t.flags = s.flags ∧ KeepsMemory s t

/-- Only pair `k` has changed, to `v`. -/
def PointerMoved (s t : State) (k : Reg16) (v : Word) : Prop :=
  SetsReg16 s t k v ∧ t.p = s.p ∧ t.draws = s.draws ∧ KeepsRest s t

/-- Only the low half of the stack pointer has changed, to `v`. -/
def StackMoved (s t : State) (v : Byte) : Prop :=
  t.p = v ∧ SameRegs s t ∧ t.draws = s.draws ∧ KeepsRest s t

/-! ### Shifts, multiply, and the arbitrary flags they leave -/

/-- All four flags have taken the next arbitrary value, and it is consumed (R26, R183, R201; log 5). -/
def ArbitraryFlags (s1 t : State) : Prop := t.flags = flagsOfBits (Config.draw s1.draws) ∧ t.draws = s1.draws + 1

/-- An 8-bit shift that leaves `v`. -/
def ByteShiftOutcome (s s1 : State) (r : Reg8) (v : Byte) (words : Nat) (t : State) : Prop :=
  SetsReg8 s1 t r v ∧ ArbitraryFlags s1 t ∧ Advances s t words ∧ t.p = s1.p ∧ KeepsMemory s t

/-- A 16-bit shift that leaves `v`. -/
def WordShiftOutcome (s s1 : State) (r : Reg16) (v : Word) (words : Nat) (t : State) : Prop :=
  SetsReg16 s1 t r v ∧ ArbitraryFlags s1 t ∧ Advances s t words ∧ t.p = s1.p ∧ KeepsMemory s t

/-- An 8-bit multiply with exact product `n`: the low byte in `reg`, the high byte in `h` unless `reg` is `h` (R201). -/
def ByteMulOutcome (s s1 : State) (r : Reg8) (n : Nat) (words : Nat) (t : State) : Prop :=
  (t.reg8 r).toNat = n % 256 ∧ (r ≠ .h → (t.reg8 .h).toNat = n / 256) ∧ (∀ q, q ≠ r → q ≠ .h → t.reg8 q = s1.reg8 q) ∧
    ArbitraryFlags s1 t ∧ Advances s t words ∧ t.p = s1.p ∧ KeepsMemory s t

/-- A 16-bit multiply with exact product `n`: the low word in `reg`, the top byte in `h` unless `reg` is `hg` (R201). -/
def WordMulOutcome (s s1 : State) (r : Reg16) (n : Nat) (words : Nat) (t : State) : Prop :=
  (t.reg16 r).toNat = n % 65536 ∧ (r ≠ .hg → (t.reg8 .h).toNat = n / 65536) ∧
    (∀ q : Reg8, q.pair ≠ r → q ≠ .h → t.reg8 q = s1.reg8 q) ∧
    ArbitraryFlags s1 t ∧ Advances s t words ∧ t.p = s1.p ∧ KeepsMemory s t

/-- A call: the low half of the stack pointer has moved down by 2 from `s`, the return address is in the two bytes at
the new stack pointer, and `pc` is the target. -/
def CallOutcome (s s1 : State) (ra target : Word) (t : State) : Prop :=
  t.pc = target ∧ t.p = s.p - 2 ∧ StoresWord s t (stackAddr (s.p - 2)) ra ∧ SameRegs s1 t ∧ t.flags = s.flags ∧
    t.draws = s1.draws

/-! ### Swap -/

/-- An 8-bit exchange of register `r` with a location (R128): each holds what the other held, nothing else changes but
the operand's pointer. A read of `flags` brings the arbitrary upper half and consumes it (R25). -/
def ByteSwapOutcome (s s1 : State) (loc : ByteLoc) (r : Reg8) (words : Nat) (t : State) : Prop :=
  Advances s t words ∧ t.reg8 r = byteLocValue loc s ∧
    match loc with
    | .reg q => t.reg8 q = s.reg8 r ∧ (∀ x, x ≠ r → x ≠ q → t.reg8 x = s1.reg8 x) ∧ t.p = s1.p ∧ t.flags = s.flags ∧
        t.draws = s1.draws ∧ KeepsMemory s t
    | .flags => t.flags = flagsOfBits ((s.reg8 r).extractLsb' 0 4) ∧ (∀ x, x ≠ r → t.reg8 x = s1.reg8 x) ∧ t.p = s1.p ∧
        t.draws = s1.draws + 1 ∧ KeepsMemory s t
    | .sp => t.p = s.reg8 r ∧ (∀ x, x ≠ r → t.reg8 x = s1.reg8 x) ∧ t.flags = s.flags ∧ t.draws = s1.draws ∧ KeepsMemory s t
    | .mem a => StoresByte s t a (s.reg8 r) ∧ (∀ x, x ≠ r → t.reg8 x = s1.reg8 x) ∧ t.p = s1.p ∧ t.flags = s.flags ∧
        t.draws = s1.draws

/-- As `ByteSwapOutcome`, for a pair; of a word written to `sp` the low byte is kept (R23). -/
def WordSwapOutcome (s s1 : State) (loc : WordLoc) (r : Reg16) (words : Nat) (t : State) : Prop :=
  Advances s t words ∧ t.reg16 r = wordLocValue loc s ∧ t.flags = s.flags ∧ t.draws = s1.draws ∧
    match loc with
    | .reg k => t.reg16 k = s.reg16 r ∧ (∀ x : Reg8, x.pair ≠ r → x.pair ≠ k → t.reg8 x = s1.reg8 x) ∧ t.p = s1.p ∧
        KeepsMemory s t
    | .sp => t.p = loByte (s.reg16 r) ∧ (∀ x : Reg8, x.pair ≠ r → t.reg8 x = s1.reg8 x) ∧ KeepsMemory s t
    | .mem a => StoresWord s t a (s.reg16 r) ∧ (∀ x : Reg8, x.pair ≠ r → t.reg8 x = s1.reg8 x) ∧ t.p = s1.p

/-! ### The instructions of one form, each with its operation -/

/-- `binop reg, src`, 8 bit. -/
def byteRegSrcOps (r : Reg8) (src : ByteSrc) : List (Instr × BinOp) :=
  [(.add8RegSrc r src, .add), (.sub8RegSrc r src, .sub), (.adc8RegSrc r src, .adc),
    (.sbc8RegSrc r src, .sbc), (.and8RegSrc r src, .and), (.or8RegSrc r src, .or), (.xor8RegSrc r src, .xor)]

/-- `binop reg, imm6`, 8 bit: `revsub` and `revsbc` stand in for `sub` and `sbc` (R70). -/
def byteRegImmOps (r : Reg8) (imm : BitVec 6) : List (Instr × BinOp) :=
  [(.add8RegImm r imm, .add), (.revsub8RegImm r imm, .revsub), (.adc8RegImm r imm, .adc),
    (.revsbc8RegImm r imm, .revsbc), (.and8RegImm r imm, .and), (.or8RegImm r imm, .or),
    (.xor8RegImm r imm, .xor)]

/-- `binop reg, [zp]`, 8 bit. -/
def byteRegZpOps (r : Reg8) (zp : BitVec 7) : List (Instr × BinOp) :=
  [(.add8RegZp r zp, .add), (.sub8RegZp r zp, .sub), (.adc8RegZp r zp, .adc), (.sbc8RegZp r zp, .sbc),
    (.and8RegZp r zp, .and), (.or8RegZp r zp, .or), (.xor8RegZp r zp, .xor)]

/-- `binop [zp], reg`, 8 bit. -/
def byteZpRegOps (zp : BitVec 7) (r : Reg8) : List (Instr × BinOp) :=
  [(.add8ZpReg zp r, .add), (.sub8ZpReg zp r, .sub), (.adc8ZpReg zp r, .adc), (.sbc8ZpReg zp r, .sbc),
    (.and8ZpReg zp r, .and), (.or8ZpReg zp r, .or), (.xor8ZpReg zp r, .xor)]

/-- `binop dest, reg`, 8 bit. -/
def byteDestRegOps (dst : ByteDest) (r : Reg8) : List (Instr × BinOp) :=
  [(.add8DestReg dst r, .add), (.sub8DestReg dst r, .sub), (.adc8DestReg dst r, .adc),
    (.sbc8DestReg dst r, .sbc), (.and8DestReg dst r, .and), (.or8DestReg dst r, .or),
    (.xor8DestReg dst r, .xor)]

/-- `alt_binop reg1, reg2`, 8 bit. -/
def byteRegRegOps (r1 r2 : Reg8) : List (Instr × BinOp) :=
  [(.neg8RegReg r1 r2, .neg), (.revsub8RegReg r1 r2, .revsub), (.negc8RegReg r1 r2, .negc),
    (.revsbc8RegReg r1 r2, .revsbc), (.andNot8RegReg r1 r2, .andNot), (.orNot8RegReg r1 r2, .orNot),
    (.xorNot8RegReg r1 r2, .xorNot)]

/-- `cmp` and `test` with `src`, 8 bit, with the operation whose flags they set. -/
def byteCompareSrcOps (r : Reg8) (src : ByteSrc) : List (Instr × BinOp) :=
  [(.cmp8RegSrc r src, .sub), (.test8RegSrc r src, .and)]

/-- `cmp` and `test` with `[zp]`, 8 bit. -/
def byteCompareZpOps (r : Reg8) (zp : BitVec 7) : List (Instr × BinOp) :=
  [(.cmp8RegZp r zp, .sub), (.test8RegZp r zp, .and)]

/-- `shift reg, src8`, 8 bit. -/
def byteShiftSrcOps (r : Reg8) (src : Src8) : List (Instr × ShiftOp) :=
  [(.shl8RegSrc8 r src, .shl), (.shr8RegSrc8 r src, .shr), (.sar8RegSrc8 r src, .sar),
    (.rol8RegSrc8 r src, .rol), (.ror8RegSrc8 r src, .ror)]

/-- `shift reg, imm4`, 8 bit; `rol` has no such form (R85). -/
def byteShiftImmOps (r : Reg8) (imm : BitVec 4) : List (Instr × ShiftOp) :=
  [(.shl8RegImm r imm, .shl), (.shr8RegImm r imm, .shr), (.sar8RegImm r imm, .sar),
    (.ror8RegImm r imm, .ror)]

/-- `binop reg, src`, 16 bit. -/
def wordRegSrcOps (r : Reg16) (src : WordSrc) : List (Instr × BinOp) :=
  [(.add16RegSrc r src, .add), (.sub16RegSrc r src, .sub), (.adc16RegSrc r src, .adc),
    (.sbc16RegSrc r src, .sbc), (.and16RegSrc r src, .and), (.or16RegSrc r src, .or),
    (.xor16RegSrc r src, .xor)]

/-- `binop reg, imm6`, 16 bit: `revsub` and `revsbc` stand in for `sub` and `sbc` (R70). -/
def wordRegImmOps (r : Reg16) (imm : BitVec 6) : List (Instr × BinOp) :=
  [(.add16RegImm r imm, .add), (.revsub16RegImm r imm, .revsub), (.adc16RegImm r imm, .adc),
    (.revsbc16RegImm r imm, .revsbc), (.and16RegImm r imm, .and), (.or16RegImm r imm, .or),
    (.xor16RegImm r imm, .xor)]

/-- `binop reg, [zp]`, 16 bit. -/
def wordRegZpOps (r : Reg16) (zp : BitVec 7) : List (Instr × BinOp) :=
  [(.add16RegZp r zp, .add), (.sub16RegZp r zp, .sub), (.adc16RegZp r zp, .adc), (.sbc16RegZp r zp, .sbc),
    (.and16RegZp r zp, .and), (.or16RegZp r zp, .or), (.xor16RegZp r zp, .xor)]

/-- `binop [zp], reg`, 16 bit. -/
def wordZpRegOps (zp : BitVec 7) (r : Reg16) : List (Instr × BinOp) :=
  [(.add16ZpReg zp r, .add), (.sub16ZpReg zp r, .sub), (.adc16ZpReg zp r, .adc), (.sbc16ZpReg zp r, .sbc),
    (.and16ZpReg zp r, .and), (.or16ZpReg zp r, .or), (.xor16ZpReg zp r, .xor)]

/-- `binop dest, reg`, 16 bit. -/
def wordDestRegOps (dst : WordDest) (r : Reg16) : List (Instr × BinOp) :=
  [(.add16DestReg dst r, .add), (.sub16DestReg dst r, .sub), (.adc16DestReg dst r, .adc),
    (.sbc16DestReg dst r, .sbc), (.and16DestReg dst r, .and), (.or16DestReg dst r, .or),
    (.xor16DestReg dst r, .xor)]

/-- `alt_binop reg1, reg2`, 16 bit. -/
def wordRegRegOps (r1 r2 : Reg16) : List (Instr × BinOp) :=
  [(.neg16RegReg r1 r2, .neg), (.revsub16RegReg r1 r2, .revsub), (.negc16RegReg r1 r2, .negc),
    (.revsbc16RegReg r1 r2, .revsbc), (.andNot16RegReg r1 r2, .andNot), (.orNot16RegReg r1 r2, .orNot),
    (.xorNot16RegReg r1 r2, .xorNot)]

/-- `cmp` and `test` with `src`, 16 bit, with the operation whose flags they set. -/
def wordCompareSrcOps (r : Reg16) (src : WordSrc) : List (Instr × BinOp) :=
  [(.cmp16RegSrc r src, .sub), (.test16RegSrc r src, .and)]

/-- `cmp` and `test` with `[zp]`, 16 bit. -/
def wordCompareZpOps (r : Reg16) (zp : BitVec 7) : List (Instr × BinOp) :=
  [(.cmp16RegZp r zp, .sub), (.test16RegZp r zp, .and)]

/-- `shift reg, src8`, 16 bit. -/
def wordShiftSrcOps (r : Reg16) (src : Src8) : List (Instr × ShiftOp) :=
  [(.shl16RegSrc8 r src, .shl), (.shr16RegSrc8 r src, .shr), (.sar16RegSrc8 r src, .sar),
    (.rol16RegSrc8 r src, .rol), (.ror16RegSrc8 r src, .ror)]

/-- `shift reg, imm4`, 16 bit; `rol` has no such form (R85). -/
def wordShiftImmOps (r : Reg16) (imm : BitVec 4) : List (Instr × ShiftOp) :=
  [(.shl16RegImm r imm, .shl), (.shr16RegImm r imm, .shr), (.sar16RegImm r imm, .sar),
    (.ror16RegImm r imm, .ror)]

/-- The 8-bit instructions with a `reg` and a `src`. -/
def byteSrcInstrs (r : Reg8) (src : ByteSrc) : List Instr :=
  (byteRegSrcOps r src ++ byteCompareSrcOps r src).map Prod.fst ++ [.mov8RegSrc r src]

/-- The 8-bit instructions with a `dest` that they read and write, and a `reg`. -/
def byteModifyInstrs (dst : ByteDest) (r : Reg8) : List Instr :=
  (byteDestRegOps dst r).map Prod.fst ++ [.swap8DestReg dst r]

/-- The 8-bit instructions with a `reg` and a `src8`. -/
def byteSrc8Instrs (r : Reg8) (src : Src8) : List Instr :=
  (byteShiftSrcOps r src).map Prod.fst ++ [.mul8RegSrc8 r src]

/-- The 16-bit instructions with a `reg` and a `src`. -/
def wordSrcInstrs (r : Reg16) (src : WordSrc) : List Instr :=
  (wordRegSrcOps r src ++ wordCompareSrcOps r src).map Prod.fst ++ [.mov16RegSrc r src]

/-- The 16-bit instructions with a `dest` that they read and write, and a `reg`. -/
def wordModifyInstrs (dst : WordDest) (r : Reg16) : List Instr :=
  (wordDestRegOps dst r).map Prod.fst ++ [.swap16DestReg dst r]

/-- The 16-bit instructions with a `reg` and a `src8`. -/
def wordSrc8Instrs (r : Reg16) (src : Src8) : List Instr :=
  (wordShiftSrcOps r src).map Prod.fst ++ [.mul16RegSrc8 r src]

/-- The conditional branches, with their number `cccc` and when they are taken (R75, R212). -/
def conditionalBranches (imm : BitVec 8) : List (Instr × BitVec 4 × (Flags → Prop)) :=
  [(.branchZ imm, 4, fun f => f.z = true), (.branchNz imm, 5, fun f => f.z = false),
    (.branchS imm, 6, fun f => f.s = true), (.branchNs imm, 7, fun f => f.s = false),
    (.branchC imm, 8, fun f => f.c = true), (.branchNc imm, 9, fun f => f.c = false),
    (.branchV imm, 12, fun f => f.v = true), (.branchNv imm, 13, fun f => f.v = false)]

/-- The conditional branches that read two flags (R75, R212). -/
def orderedBranches (imm : BitVec 8) : List (Instr × BitVec 4 × (Flags → Prop)) :=
  [(.branchA imm, 10, fun f => f.c = true ∧ f.z = false), (.branchNa imm, 11, fun f => f.c = false ∨ f.z = true),
    (.branchG imm, 14, fun f => f.v = true ∧ f.z = false), (.branchNg imm, 15, fun f => f.v = false ∨ f.z = true)]

/-! ### Code in memory -/

/-- The four bytes from `pc` on, addresses taken modulo 2^16. -/
def codeBytes (s : State) : List Byte :=
  [s.readByte s.pc, s.readByte (s.pc + 1), s.readByte (s.pc + 2), s.readByte (s.pc + 3)]

/-- The first word of the instruction at `pc` (R42, R45). -/
def codeWord (s : State) : Word := joinBytes (s.readByte (s.pc + 1)) (s.readByte s.pc)

end Sys2Proof.Machine
end

