-- ==== Sys2Proof/Certificates/Slice0/Obligations.lean ====
section
/-! DEFINITION. The statements about this model that are to be proved, in the terms of Sys2Proof/Safety.lean. In them `s`
is the state before the instruction, `s1` the state after its operand's own side effects (a pointer update, a pop, a
push, an arbitrary value consumed), which the statements about operand forms pin down, and `t` the state after the
instruction. -/

open Sys2Proof Sys2Proof.Machine

/-! ### Step, fetch and encoding -/

/-- O1: with the bytes of instruction `i` at an even `pc`, inside the address space and not stored to by the program,
the step is `exec i` and nothing else. Choices: log 1, log 10. -/
def Obligations.StepRunsDecodedInstruction : Prop :=
  ∀ (s : State) (i : Instr) (rest : List Byte), s.pc.getLsbD 0 = false → decode (codeBytes s) = .ok (i, rest) →
    s.pc.toNat + 2 * i.words ≤ 65536 → (∀ k, k < 2 * i.words → s.pc.toNat + k ∉ s.stored) →
    WellFormed i ∧ step s = exec i s

/-- O2: words written out from the spec's examples decode to the instructions they stand for, one or more per family.
Choices: log 1, log 2, log 15. -/
def Obligations.SpecWordsDecode : Prop :=
  decode [0x08, 0xc4] = .ok (.add8RegSrc .b (.reg .a), []) ∧
    decode [0x02, 0x4c] = .ok (.sub16RegSrc .ba (.reg .dc), []) ∧
    decode [0x4a, 0x8c] = .ok (.revsub8RegImm .a 10, []) ∧
    decode [0x8a, 0x84] = .ok (.neg8RegReg .c .a, []) ∧
    decode [0x90, 0xa8] = .ok (.or8ZpReg 0x10 .a, []) ∧
    decode [0xca, 0x74] = .ok (.shl16RegSrc8 .ba (.reg .c), []) ∧
    decode [0x71, 0x2c] = .ok (.shl8RegImm .a 1, []) ∧
    decode [0x0c, 0x23] = .ok (.mul8RegSrc8 .g (.reg .e), []) ∧
    decode [0x85, 0x1c] = .ok (.mov16DestReg .stack .ba, []) ∧
    decode [0x8a, 0x2c] = .ok (.not8RegReg .c .a, []) ∧
    decode [0xca, 0x2c] = .ok (.swap8DestReg (.reg .c) .a, []) ∧
    decode [0x01, 0x20, 0x00, 0x02] = .ok (.jumpSrc (.imm 0x0200), []) ∧
    decode [0x05, 0x20] = .ok (.ret, []) ∧
    decode [0x05, 0x01] = .ok (.branchCall 5, [])

/-- O3: decoding the bytes of a well-formed instruction gives it back, whatever follows them. Choices: log 1, log 2,
log 12, log 14, log 15. -/
def Obligations.EncodeThenDecode : Prop :=
  ∀ (i : Instr) (rest : List Byte), WellFormed i → decode (encode i ++ rest) = .ok (i, rest)

/-- O4: what decodes is well formed and is the encoding of what it decodes to: no bit of an instruction is without
meaning, and no two instructions share an encoding. Choices: log 1, log 2, log 12, log 14, log 15. -/
def Obligations.DecodeThenEncode : Prop :=
  ∀ (bs : List Byte) (i : Instr) (rest : List Byte), decode bs = .ok (i, rest) → WellFormed i ∧ bs = encode i ++ rest

/-- O5: the operand codes that are not assigned, by role and size. Choices: log 12, log 15. -/
def Obligations.UnassignedOperandCodes : Prop :=
  ∀ (op : BitVec 6) (imm : Word),
    (decodeByteSrc op imm = none ↔ op = 0b000000 ∨ op = 0b000100 ∨ op = 0b000110) ∧
      (decodeByteDest op imm = none ↔ op = 0b000000 ∨ op = 0b000001 ∨ op = 0b000100 ∨ op = 0b000110) ∧
      decodeWordSrc op imm ≠ none ∧
      (decodeWordDest op imm = none ↔ op = 0b000001 ∨ op.extractLsb' 3 3 = 0b001) ∧
      (decodeSrc8 op imm = none ↔ op = 0b000000 ∨ op = 0b000010 ∨ op = 0b000100 ∨ op = 0b000110)

/-- O6: the first word alone tells whether it is an instruction, and how long; a one-word instruction takes nothing
from the word after it. Choices: log 15. -/
def Obligations.FirstWordTellsLength : Prop :=
  ∀ (w imm imm' : Word) (i : Instr), decodeWords w imm = some i →
    (i.words = 1 ∨ i.words = 2) ∧
      ∃ j, decodeWords w imm' = some j ∧ j.words = i.words ∧ encodeWord j = encodeWord i ∧ (i.words = 1 → j = i)

/-- O7: where a step finds no instruction to run, it stops, for the reason the spec names. Choices: log 1, log 10, log
12, log 13, log 15. -/
def Obligations.FetchStops : Prop :=
  ∀ (s : State),
    (s.pc.getLsbD 0 = true → step s = .refused .oddPc) ∧
      (s.pc.getLsbD 0 = false → s.pc.toNat ∈ s.stored ∨ s.pc.toNat + 1 ∈ s.stored → step s = .refused .selfModifying) ∧
      (s.pc.getLsbD 0 = false → s.pc.toNat ∉ s.stored → s.pc.toNat + 1 ∉ s.stored →
        (decodeWords (codeWord s) 0 = none → step s = .refused .unassignedEncoding) ∧
          ∀ i, decodeWords (codeWord s) 0 = some i → i.words = 2 →
            (s.pc = 0xfffe → step s = .refused .fetchWrap) ∧
              (s.pc ≠ 0xfffe → s.pc.toNat + 2 ∈ s.stored ∨ s.pc.toNat + 3 ∈ s.stored →
                step s = .refused .selfModifying))

/-- O8: the nine unassigned rows of the opcode table have no meaning and no effect. Choices: log 12, log 15. -/
def Obligations.UnassignedRowsStop : Prop :=
  ∀ (s : State) (r : Reg8) (k : Reg16) (code : BitVec 6) (data : BitVec 7) (imm : BitVec 8),
    ∀ i ∈ [Instr.unassignedShift8Op1 r code, .unassignedShift8Op3 r code, .unassignedShift8Op5 r code,
        .unassignedShift16Op1 k code, .unassignedShift16Op3 k code, .unassignedShift16Op5 k code,
        .unassignedMul data, .unassignedBranch2 imm, .unassignedBranch3 imm],
      exec i s = .refused .unassignedEncoding

/-! ### State, reset and the whole machine -/

/-- O9: the state after reset. `pc` is the spec's; the zeros and the empty memory are the model's choice (log 6, log
7). Choices: log 6, log 7, log 10. -/
def Obligations.ResetState : Prop :=
  State.reset.pc = 0xfffc ∧ (∀ r, State.reset.reg8 r = 0) ∧ State.reset.sp = 0x0100 ∧
    State.reset.flags = { z := false, s := false, v := false, c := false } ∧ (∀ a, State.reset.mem.read a = 0) ∧
    State.reset.stored = []

/-- O10: the invariant holds at reset. Choices: log 7, log 10. -/
def Obligations.ResetMeetsInvariant : Prop := Invariant State.reset

/-- O11: every step keeps the invariant: memory and the stored addresses stay in canonical form, `pc` stays even.
Choices: log 7, log 10. -/
def Obligations.StepKeepsInvariant : Prop := ∀ (s t : State), Invariant s → step s = .next t → Invariant t

/-- O12: a step changes memory only at addresses it notes as stored to, and never takes a note away. Choices: log 10. -/
def Obligations.StepChangesOnlyStoredBytes : Prop :=
  ∀ (s t : State), step s = .next t →
    (∀ a, a ∈ s.stored → a ∈ t.stored) ∧ ∀ a, a ∉ t.stored → t.mem.read a = s.mem.read a

/-- O13: the program text is fixed: whatever instruction a run of any length comes to execute is the one that stood at
its address in the memory the run began with. Choices: log 10. -/
def Obligations.ProgramTextIsFixed : Prop :=
  ∀ (n : Nat) (s t : State) (i : Instr), Sys2Proof.core.run n s = .next t → fetch t = .ok i →
    fetch { t with mem := s.mem } = .ok i

/-- O14: the pairs are views of the registers, the register named first being the upper half. Choices: log 15. -/
def Obligations.PairsViewRegisters : Prop :=
  ∀ (s : State),
    ((s.reg16 .ba).toNat = 256 * s.regs.b.toNat + s.regs.a.toNat ∧ (s.reg16 .dc).toNat = 256 * s.regs.d.toNat + s.regs.c.toNat ∧
        (s.reg16 .fe).toNat = 256 * s.regs.f.toNat + s.regs.e.toNat ∧
        (s.reg16 .hg).toNat = 256 * s.regs.h.toNat + s.regs.g.toNat) ∧
      (∀ (k : Reg16) (v : Word), SetsReg16 s (s.setReg16 k v) k v ∧ KeepsRest s (s.setReg16 k v) ∧
        (s.setReg16 k v).p = s.p ∧ (s.setReg16 k v).draws = s.draws) ∧
      ∀ (r : Reg8) (v : Byte), SetsReg8 s (s.setReg8 r v) r v ∧ KeepsRest s (s.setReg8 r v) ∧
        (s.setReg8 r v).p = s.p ∧ (s.setReg8 r v).draws = s.draws ∧
        ∀ k, k ≠ r.pair → (s.setReg8 r v).reg16 k = s.reg16 k

/-- O15: the stack pointer is 0x0100 + `p`, and no instruction changes its upper half. -/
def Obligations.StackPointerUpperHalfIsOne : Prop :=
  (∀ s : State, s.sp.toNat = 0x0100 + s.p.toNat) ∧
    ∀ (i : Instr) (s t : State), exec i s = .next t → hiByte t.sp = 1

/-- O16: a word in memory has its low byte at the lower address; at 0xffff neither a read nor a write is possible.
Choices: log 1, log 15, log 16. -/
def Obligations.WordAccess : Prop :=
  ∀ (s : State) (a v : Word),
    (a ≠ 0xffff → s.mem.wf = true → ∃ t, s.storeWord a v = .ok t ∧ StoresWord s t a v ∧ t.readWord a = .ok v) ∧
      (a ≠ 0xffff → s.readWord a = .ok (joinBytes (s.readByte (a + 1)) (s.readByte a))) ∧
      (a = 0xffff → s.storeWord a v = .error .accessWrap ∧ s.readWord a = .error .accessWrap)

/-! ### Operand forms -/

/-- O17: the forms that change no register, and their codes, the same in every role: `[r16 + zext(r8)]` where the
index is no half of the base, and `[r16 + imm2]` with the offset in operands. Choices: log 15. -/
def Obligations.RegisterIndirectForms : Prop :=
  (∀ (op : BitVec 6) (imm : Word) (m : MemMode), decodeMem op imm = some m →
      decodeByteSrc op imm = some (.mem m) ∧ decodeWordSrc op imm = some (.mem m) ∧ decodeByteDest op imm = some (.mem m) ∧
        decodeWordDest op imm = some (.mem m) ∧ decodeSrc8 op imm = some (.mem m)) ∧
    (∀ (base : BitVec 2) (index : BitVec 3) (imm : Word), base ≠ index.extractLsb' 1 2 →
      decodeMem (1#1 ++ base ++ index) imm = some (.indexed (reg16OfNum base) (reg8OfNum index))) ∧
    (∀ (base imm2 : BitVec 2) (imm : Word), decodeMem (0b01#2 ++ base ++ imm2) imm = some (.disp (reg16OfNum base) imm2)) ∧
    ∀ (s : State) (k : Reg16) (r : Reg8) (imm2 : BitVec 2) (n : Nat), n = 1 ∨ n = 2 →
      (memAddr (.indexed k r) n s).toNat = ((s.reg16 k).toNat + (s.reg8 r).toNat) % 65536 ∧ memTouch (.indexed k r) n s = s ∧
        (memAddr (.disp k imm2) n s).toNat = ((s.reg16 k).toNat + n * imm2.toNat) % 65536 ∧ memTouch (.disp k imm2) n s = s

/-- O18: `[r16++]` uses the pointer and then moves it up by the operand's size, `[--r16]` moves it down and uses the
new value; nothing else changes. `[imm16]` is the address itself. Choices: log 15. -/
def Obligations.PointerForms : Prop :=
  ∀ (s : State) (k : Reg16) (addr : Word) (n : Nat), n = 1 ∨ n = 2 →
    memAddr (.postInc k) n s = s.reg16 k ∧
      PointerMoved s (memTouch (.postInc k) n s) k (s.reg16 k + BitVec.ofNat 16 n) ∧
      memAddr (.preDec k) n s = s.reg16 k - BitVec.ofNat 16 n ∧
      PointerMoved s (memTouch (.preDec k) n s) k (s.reg16 k - BitVec.ofNat 16 n) ∧
      memAddr (.abs addr) n s = addr ∧ memTouch (.abs addr) n s = s

/-- O19: the value of every `src` of an 8-bit instruction, and what evaluating it changes. None of them stops.
Choices: log 15. -/
def Obligations.ByteSourceForms : Prop :=
  ∀ (s : State) (r : Reg8) (v : Word) (m : MemMode),
    evalByteSrc (.reg r) s = .ok (s.reg8 r, s) ∧ evalByteSrc .sp s = .ok (s.p, s) ∧
      evalByteSrc (.imm v) s = .ok (BitVec.ofNat 8 (v.toNat % 256), s) ∧
      evalByteSrc (.mem m) s = .ok (s.mem.read (memAddr m 1 s).toNat, memTouch m 1 s) ∧
      ∃ s1, evalByteSrc .pop s = .ok (s.mem.read (0x100 + s.p.toNat), s1) ∧ StackMoved s s1 (s.p + 1)

/-- O20: the value of every `src` of a 16-bit instruction and of `src16`, and what evaluating it changes or why it
stops. Operand code `001rrr` gives the sign extension or the zero extension, the same one for every register and
state. Choices: log 1, log 3, log 15. -/
def Obligations.WordSourceForms : Prop :=
  ∀ (w : Word),
    (∀ (s : State) (k : Reg16) (v : Word) (m : MemMode),
      evalWordSrc w (.reg k) s = .ok (s.reg16 k, s) ∧ (∃ u, evalWordSrc w .sp s = .ok (u, s) ∧ u.toNat = 0x100 + s.p.toNat) ∧
        evalWordSrc w (.imm v) s = .ok (v, s) ∧
        (memAddr m 2 s ≠ 0xffff → evalWordSrc w (.mem m) s =
          .ok (joinBytes (s.readByte (memAddr m 2 s + 1)) (s.readByte (memAddr m 2 s)), memTouch m 2 s)) ∧
        (memAddr m 2 s = 0xffff → evalWordSrc w (.mem m) s = .error .accessWrap) ∧
        (s.p ≠ 0xff → ∃ s1, evalWordSrc w .pop s =
          .ok (joinBytes (s.mem.read (0x101 + s.p.toNat)) (s.mem.read (0x100 + s.p.toNat)), s1) ∧ StackMoved s s1 (s.p + 2)) ∧
        (s.p = 0xff → evalWordSrc w .pop s = .error .stackWrap)) ∧
      ((∀ (s : State) (r : Reg8), evalWordSrc w (.ext r) s = .ok ((s.reg8 r).signExtend 16, s)) ∨
        ∀ (s : State) (r : Reg8), evalWordSrc w (.ext r) s = .ok (BitVec.ofNat 16 (s.reg8 r).toNat, s))

/-- O21: the value of every `src8`, and what evaluating it changes or why it stops; `n` is its step, 1 under an 8-bit
instruction, and 1 or 2, one of the two for the whole machine, under a 16-bit one (log 4). Choices: log 4, log 15. -/
def Obligations.CountSourceForms : Prop :=
  src8StepByte = 1 ∧ (src8StepWord = 1 ∨ src8StepWord = 2) ∧
    ∀ (s : State) (r : Reg8) (v : Word) (m : MemMode) (n : Nat), n = 1 ∨ n = 2 →
      evalSrc8 n (.reg r) s = .ok (s.reg8 r, s) ∧ evalSrc8 n .sp s = .ok (s.p, s) ∧
        evalSrc8 n (.imm v) s = .ok (BitVec.ofNat 8 (v.toNat % 256), s) ∧
        evalSrc8 n (.mem m) s = .ok (s.mem.read (memAddr m n s).toNat, memTouch m n s) ∧
        (s.p.toNat + n ≤ 256 → ∃ s1, evalSrc8 n .pop s = .ok (s.mem.read (0x100 + s.p.toNat), s1) ∧
          StackMoved s s1 (s.p + BitVec.ofNat 8 n)) ∧
        (256 < s.p.toNat + n → evalSrc8 n .pop s = .error .stackWrap)

/-- O22: where every `dest` of an 8-bit instruction is: `[push]` if it is written without being read, `[sp]` if it is
read. Choices: log 15. -/
def Obligations.ByteDestinationForms : Prop :=
  ∀ (s : State) (role : DestRole) (r : Reg8) (m : MemMode),
    evalByteDest role (.reg r) s = .ok (.reg r, s) ∧ evalByteDest role .flags s = .ok (.flags, s) ∧
      evalByteDest role .sp s = .ok (.sp, s) ∧ evalByteDest role (.mem m) s = .ok (.mem (memAddr m 1 s), memTouch m 1 s) ∧
      (s.p = 0 → evalByteDest .write .stack s = .error .stackWrap) ∧
      (s.p ≠ 0 → ∃ a s1, evalByteDest .write .stack s = .ok (.mem a, s1) ∧ a.toNat = 0x100 + (s.p.toNat - 1) ∧
        StackMoved s s1 (s.p - 1)) ∧
      ∃ a, evalByteDest .modify .stack s = .ok (.mem a, s) ∧ a.toNat = 0x100 + s.p.toNat

/-- O23: where every `dest` of a 16-bit instruction is, and when the stack has no room for it. Choices: log 15. -/
def Obligations.WordDestinationForms : Prop :=
  ∀ (s : State) (role : DestRole) (k : Reg16) (m : MemMode),
    evalWordDest role (.reg k) s = .ok (.reg k, s) ∧ evalWordDest role .sp s = .ok (.sp, s) ∧
      evalWordDest role (.mem m) s = .ok (.mem (memAddr m 2 s), memTouch m 2 s) ∧
      (s.p.toNat < 2 → evalWordDest .write .stack s = .error .stackWrap) ∧
      (2 ≤ s.p.toNat → ∃ a s1, evalWordDest .write .stack s = .ok (.mem a, s1) ∧ a.toNat = 0x100 + (s.p.toNat - 2) ∧
        StackMoved s s1 (s.p - 2)) ∧
      (s.p = 0xff → evalWordDest .modify .stack s = .error .stackWrap) ∧
      (s.p ≠ 0xff → ∃ a, evalWordDest .modify .stack s = .ok (.mem a, s) ∧ a.toNat = 0x100 + s.p.toNat)

/-- O24: the operand `flags`: bits 3:0 of a read are carry, signed carry, sign and zero, bits 7:4 are the next
arbitrary value, which is consumed; a write sets the four flags from bits 3:0 and ignores the rest. Choices: log 5,
log 15. -/
def Obligations.FlagsOperand : Prop :=
  ∀ (s : State),
    (∃ v s1, evalByteSrc .flags s = .ok (v, s1) ∧ v.getLsbD 0 = s.flags.z ∧ v.getLsbD 1 = s.flags.s ∧
      v.getLsbD 2 = s.flags.v ∧ v.getLsbD 3 = s.flags.c ∧ v.extractLsb' 4 4 = Config.draw s.draws ∧
      SameRegs s s1 ∧ s1.p = s.p ∧ s1.draws = s.draws + 1 ∧ KeepsRest s s1) ∧
      ∀ r, Answers (exec (.mov8DestReg .flags r) s) fun t =>
        t.flags = { z := (s.reg8 r).getLsbD 0, s := (s.reg8 r).getLsbD 1, v := (s.reg8 r).getLsbD 2, c := (s.reg8 r).getLsbD 3 } ∧
          SameRegs s t ∧ t.p = s.p ∧ t.draws = s.draws ∧ Advances s t 1 ∧ KeepsMemory s t

/-- O25: where `reg`, or the register `h` that `mul` writes, overlaps the pointer that the operand moves, the
instruction stops. Choices: log 15. -/
def Obligations.PointerOverlapStops : Prop :=
  (∀ (r : Reg8) (src : ByteSrc) (s : State), byteSrcPointer src = some r.pair →
      ∀ i ∈ byteSrcInstrs r src, exec i s = .refused .pointerOverlap) ∧
    (∀ (r : Reg16) (src : WordSrc) (s : State), wordSrcPointer src = some r →
      ∀ i ∈ wordSrcInstrs r src, exec i s = .refused .pointerOverlap) ∧
    (∀ (dst : ByteDest) (r : Reg8) (s : State), byteDestPointer dst = some r.pair →
      ∀ i ∈ .mov8DestReg dst r :: byteModifyInstrs dst r, exec i s = .refused .pointerOverlap) ∧
    (∀ (dst : WordDest) (r : Reg16) (s : State), wordDestPointer dst = some r →
      ∀ i ∈ .mov16DestReg dst r :: wordModifyInstrs dst r, exec i s = .refused .pointerOverlap) ∧
    (∀ (r : Reg8) (src : Src8) (s : State), src8Pointer src = some r.pair →
      ∀ i ∈ byteSrc8Instrs r src, exec i s = .refused .pointerOverlap) ∧
    (∀ (r : Reg16) (src : Src8) (s : State), src8Pointer src = some r →
      ∀ i ∈ wordSrc8Instrs r src, exec i s = .refused .pointerOverlap) ∧
    ∀ (r : Reg8) (k : Reg16) (src : Src8) (s : State), src8Pointer src = some .hg →
      exec (.mul8RegSrc8 r src) s = .refused .pointerOverlap ∧ exec (.mul16RegSrc8 k src) s = .refused .pointerOverlap

/-! ### Moves -/

/-- O26: `mov reg, src` puts the value of `src` into `reg`, for both sizes, and leaves the flags. Choices: log 3, log
15. -/
def Obligations.MovRegSrcResult : Prop :=
  (∀ (r : Reg8) (src : ByteSrc) (s s1 : State) (v : Byte), byteSrcPointer src ≠ some r.pair →
      evalByteSrc src s = .ok (v, s1) →
      Answers (exec (.mov8RegSrc r src) s) (ByteRegOutcome s s1 r v s.flags src.words)) ∧
    ∀ (r : Reg16) (src : WordSrc) (s s1 : State) (v : Word), wordSrcPointer src ≠ some r →
      evalWordSrc (encodeWord (.mov16RegSrc r src)) src s = .ok (v, s1) →
      Answers (exec (.mov16RegSrc r src) s) (WordRegOutcome s s1 r v s.flags src.words)

/-- O27: `mov dest, reg` puts the register's value from before any pointer update into `dest`, for both sizes.
Choices: log 1, log 15. -/
def Obligations.MovDestRegResult : Prop :=
  (∀ (dst : ByteDest) (r : Reg8) (s s1 : State) (loc : ByteLoc), s.mem.wf = true → byteDestPointer dst ≠ some r.pair →
      evalByteDest .write dst s = .ok (loc, s1) →
      Answers (exec (.mov8DestReg dst r) s) (ByteDestOutcome s s1 loc (s.reg8 r) s.flags dst.words)) ∧
    ∀ (dst : WordDest) (r : Reg16) (s s1 : State) (loc : WordLoc), s.mem.wf = true → wordDestPointer dst ≠ some r →
      evalWordDest .write dst s = .ok (loc, s1) → wordLocOk loc →
      Answers (exec (.mov16DestReg dst r) s) (WordDestOutcome s s1 loc (s.reg16 r) s.flags dst.words)

/-- O28: `mov reg, imm8`: the words, and the sign-extended immediate in `reg`. Choices: log 15. -/
def Obligations.MovRegImmResult : Prop :=
  (∀ (rr : BitVec 2) (g : BitVec 1) (imm : BitVec 8) (x : Word),
      decodeWords (0b001#3 ++ g ++ 0b01#2 ++ rr ++ imm) x = some (.mov8RegImm (reg8OfNum (rr ++ g)) imm) ∧
        decodeWords (0b000101#6 ++ rr ++ imm) x = some (.mov16RegImm (reg16OfNum rr) imm)) ∧
    (∀ (r : Reg8) (imm : BitVec 8) (s : State), Answers (exec (.mov8RegImm r imm) s) (ByteRegOutcome s s r imm s.flags 1)) ∧
    ∀ (r : Reg16) (imm : BitVec 8) (s : State),
      Answers (exec (.mov16RegImm r imm) s) (WordRegOutcome s s r (BitVec.ofInt 16 imm.toInt) s.flags 1)

/-- O29: `mov reg, [zp]` loads the byte at `imm7`, or the word at `2*imm7`. Choices: log 1, log 15. -/
def Obligations.MovRegZpResult : Prop :=
  ∀ (zp : BitVec 7) (s : State),
    (∀ r : Reg8, Answers (exec (.mov8RegZp r zp) s) (ByteRegOutcome s s r (s.mem.read zp.toNat) s.flags 1)) ∧
      ∀ r : Reg16, Answers (exec (.mov16RegZp r zp) s)
        (WordRegOutcome s s r (joinBytes (s.mem.read (2 * zp.toNat + 1)) (s.mem.read (2 * zp.toNat))) s.flags 1)

/-- O30: `mov [zp], reg` stores the byte at `imm7`, or the word at `2*imm7`. Choices: log 1, log 15. -/
def Obligations.MovZpRegResult : Prop :=
  ∀ (zp : BitVec 7) (s : State), s.mem.wf = true →
    (∀ r : Reg8, Answers (exec (.mov8ZpReg zp r) s) (ByteDestOutcome s s (.mem (zpByteAddr zp)) (s.reg8 r) s.flags 1)) ∧
      (∀ r : Reg16, Answers (exec (.mov16ZpReg zp r) s) (WordDestOutcome s s (.mem (zpWordAddr zp)) (s.reg16 r) s.flags 1)) ∧
      (zpByteAddr zp).toNat = zp.toNat ∧ (zpWordAddr zp).toNat = 2 * zp.toNat

/-- O31: `not` puts the complement of the source register into the destination, leaves carry and signed carry, and
gives zero and sign the next arbitrary value. Choices: log 5, log 15, log 19. -/
def Obligations.NotResult : Prop :=
  ∀ (s : State),
    (∀ r1 r2 : Reg8, Answers (exec (.not8RegReg r1 r2) s) fun t =>
      SetsReg8 s t r1 (~~~(s.reg8 r2)) ∧ t.flags.v = s.flags.v ∧ t.flags.c = s.flags.c ∧
        t.flags.z = (Config.draw s.draws).getLsbD 0 ∧ t.flags.s = (Config.draw s.draws).getLsbD 1 ∧
        t.draws = s.draws + 1 ∧ t.p = s.p ∧ Advances s t 1 ∧ KeepsMemory s t) ∧
      ∀ r1 r2 : Reg16, Answers (exec (.not16RegReg r1 r2) s) fun t =>
        SetsReg16 s t r1 (~~~(s.reg16 r2)) ∧ t.flags.v = s.flags.v ∧ t.flags.c = s.flags.c ∧
          t.flags.z = (Config.draw s.draws).getLsbD 0 ∧ t.flags.s = (Config.draw s.draws).getLsbD 1 ∧
          t.draws = s.draws + 1 ∧ t.p = s.p ∧ Advances s t 1 ∧ KeepsMemory s t

/-- O32: `swap dest, reg` exchanges the two, both read before either is written, for both sizes. Choices: log 1, log
5, log 15, log 18. -/
def Obligations.SwapDestRegResult : Prop :=
  (∀ (dst : ByteDest) (r : Reg8) (s s1 : State) (loc : ByteLoc), s.mem.wf = true → byteDestPointer dst ≠ some r.pair →
      evalByteDest .modify dst s = .ok (loc, s1) →
      Answers (exec (.swap8DestReg dst r) s) (ByteSwapOutcome s s1 loc r dst.words)) ∧
    ∀ (dst : WordDest) (r : Reg16) (s s1 : State) (loc : WordLoc), s.mem.wf = true → wordDestPointer dst ≠ some r →
      evalWordDest .modify dst s = .ok (loc, s1) → wordLocOk loc →
      Answers (exec (.swap16DestReg dst r) s) (WordSwapOutcome s s1 loc r dst.words)

/-- O33: `swap [zp], reg` exchanges a register with the byte at `imm7`, or a pair with the word at `2*imm7`. Choices:
log 1. Choices: log 1, log 15, log 18. -/
def Obligations.SwapZpRegResult : Prop :=
  ∀ (zp : BitVec 7) (s : State), s.mem.wf = true →
    (∀ r : Reg8, Answers (exec (.swap8ZpReg zp r) s) (ByteSwapOutcome s s (.mem (zpByteAddr zp)) r 1)) ∧
      ∀ r : Reg16, Answers (exec (.swap16ZpReg zp r) s) (WordSwapOutcome s s (.mem (zpWordAddr zp)) r 1)

/-! ### Binary operations -/

/-- O34: the seven 8-bit `binop reg, src`: result and all four flags. Choices: log 15. -/
def Obligations.ByteBinopRegSrcResult : Prop :=
  ∀ (r : Reg8) (src : ByteSrc) (s s1 : State) (v : Byte), byteSrcPointer src ≠ some r.pair →
    evalByteSrc src s = .ok (v, s1) →
    ∀ e ∈ byteRegSrcOps r src, Answers (exec e.1 s)
      (ByteRegOutcome s s1 r (specResult e.2 (s.reg8 r) v s.flags) (specFlags e.2 (s.reg8 r) v s.flags) src.words)

/-- O35: the seven 16-bit `binop reg, src`: result and all four flags. Choices: log 3, log 15. -/
def Obligations.WordBinopRegSrcResult : Prop :=
  ∀ (r : Reg16) (src : WordSrc) (s s1 : State) (v : Word), wordSrcPointer src ≠ some r →
    ∀ e ∈ wordRegSrcOps r src, evalWordSrc (encodeWord e.1) src s = .ok (v, s1) → Answers (exec e.1 s)
      (WordRegOutcome s s1 r (specResult e.2 (s.reg16 r) v s.flags) (specFlags e.2 (s.reg16 r) v s.flags) src.words)

/-- O36: the seven `binop reg, imm6` of both sizes: the immediate is sign-extended. Choices: log 15. -/
def Obligations.BinopRegImmResult : Prop :=
  ∀ (imm : BitVec 6) (s : State),
    (∀ r : Reg8, ∀ e ∈ byteRegImmOps r imm, Answers (exec e.1 s)
      (ByteRegOutcome s s r (specResult e.2 (s.reg8 r) (BitVec.ofInt 8 imm.toInt) s.flags)
        (specFlags e.2 (s.reg8 r) (BitVec.ofInt 8 imm.toInt) s.flags) 1)) ∧
      ∀ r : Reg16, ∀ e ∈ wordRegImmOps r imm, Answers (exec e.1 s)
        (WordRegOutcome s s r (specResult e.2 (s.reg16 r) (BitVec.ofInt 16 imm.toInt) s.flags)
          (specFlags e.2 (s.reg16 r) (BitVec.ofInt 16 imm.toInt) s.flags) 1)

/-- O37: the seven alternate operations of both sizes: `reg1` is the destination, `reg2` the source. Choices: log 15. -/
def Obligations.AlternateResult : Prop :=
  ∀ (s : State),
    (∀ r1 r2 : Reg8, ∀ e ∈ byteRegRegOps r1 r2, Answers (exec e.1 s)
      (ByteRegOutcome s s r1 (specResult e.2 (s.reg8 r1) (s.reg8 r2) s.flags)
        (specFlags e.2 (s.reg8 r1) (s.reg8 r2) s.flags) 1)) ∧
      ∀ r1 r2 : Reg16, ∀ e ∈ wordRegRegOps r1 r2, Answers (exec e.1 s)
        (WordRegOutcome s s r1 (specResult e.2 (s.reg16 r1) (s.reg16 r2) s.flags)
          (specFlags e.2 (s.reg16 r1) (s.reg16 r2) s.flags) 1)

/-- O38: the seven `binop reg, [zp]` of both sizes. Choices: log 1, log 15. -/
def Obligations.BinopRegZpResult : Prop :=
  ∀ (zp : BitVec 7) (s : State),
    (∀ r : Reg8, ∀ e ∈ byteRegZpOps r zp, Answers (exec e.1 s)
      (ByteRegOutcome s s r (specResult e.2 (s.reg8 r) (s.readByte (zpByteAddr zp)) s.flags)
        (specFlags e.2 (s.reg8 r) (s.readByte (zpByteAddr zp)) s.flags) 1)) ∧
      ∀ r : Reg16, ∀ e ∈ wordRegZpOps r zp, Answers (exec e.1 s)
        (WordRegOutcome s s r (specResult e.2 (s.reg16 r) (wordLocValue (.mem (zpWordAddr zp)) s) s.flags)
          (specFlags e.2 (s.reg16 r) (wordLocValue (.mem (zpWordAddr zp)) s) s.flags) 1)

/-- O39: the seven `binop [zp], reg` of both sizes: memory is the destination, the register the source. Choices: log
1, log 15. -/
def Obligations.BinopZpRegResult : Prop :=
  ∀ (zp : BitVec 7) (s : State), s.mem.wf = true →
    (∀ r : Reg8, ∀ e ∈ byteZpRegOps zp r, Answers (exec e.1 s)
      (ByteDestOutcome s s (.mem (zpByteAddr zp)) (specResult e.2 (s.readByte (zpByteAddr zp)) (s.reg8 r) s.flags)
        (specFlags e.2 (s.readByte (zpByteAddr zp)) (s.reg8 r) s.flags) 1)) ∧
      ∀ r : Reg16, ∀ e ∈ wordZpRegOps zp r, Answers (exec e.1 s)
        (WordDestOutcome s s (.mem (zpWordAddr zp))
          (specResult e.2 (wordLocValue (.mem (zpWordAddr zp)) s) (s.reg16 r) s.flags)
          (specFlags e.2 (wordLocValue (.mem (zpWordAddr zp)) s) (s.reg16 r) s.flags) 1)

/-- O40: the seven 8-bit `binop dest, reg`: the destination is read and written in one place, and `flags` is refused.
Choices: log 15. -/
def Obligations.ByteBinopDestRegResult : Prop :=
  ∀ (dst : ByteDest) (r : Reg8) (s s1 : State) (loc : ByteLoc), ∀ e ∈ byteDestRegOps dst r,
    (dst = .flags → exec e.1 s = .refused .flagsDestBinop) ∧
      (dst ≠ .flags → s.mem.wf = true → byteDestPointer dst ≠ some r.pair → evalByteDest .modify dst s = .ok (loc, s1) →
        Answers (exec e.1 s) (ByteDestOutcome s s1 loc (specResult e.2 (byteLocValue loc s) (s.reg8 r) s.flags)
          (specFlags e.2 (byteLocValue loc s) (s.reg8 r) s.flags) dst.words))

/-- O41: the seven 16-bit `binop dest, reg`; of a result written to `sp` the low byte is kept. Choices: log 1, log 15.
-/
def Obligations.WordBinopDestRegResult : Prop :=
  ∀ (dst : WordDest) (r : Reg16) (s s1 : State) (loc : WordLoc), ∀ e ∈ wordDestRegOps dst r,
    s.mem.wf = true → wordDestPointer dst ≠ some r → evalWordDest .modify dst s = .ok (loc, s1) → wordLocOk loc →
      Answers (exec e.1 s) (WordDestOutcome s s1 loc (specResult e.2 (wordLocValue loc s) (s.reg16 r) s.flags)
        (specFlags e.2 (wordLocValue loc s) (s.reg16 r) s.flags) dst.words)

/-- O42: `cmp` and `test` with a `src`, both sizes: the flags of the difference or of the conjunction, and nothing
else but the operand's own side effects; a 16-bit one with operand code `001rrr` compares with the sign extension, or
is refused where that code means `zext(r8)` (log 3). Choices: log 3, log 15. -/
def Obligations.CompareSrcFlags : Prop :=
  (∀ (r : Reg8) (src : ByteSrc) (s s1 : State) (v : Byte), byteSrcPointer src ≠ some r.pair →
      evalByteSrc src s = .ok (v, s1) →
      ∀ e ∈ byteCompareSrcOps r src,
        Answers (exec e.1 s) (FlagsOutcome s s1 (specFlags e.2 (s.reg8 r) v s.flags) src.words)) ∧
    (∀ (r : Reg16) (src : WordSrc) (s s1 : State) (v : Word), wordSrcPointer src ≠ some r → (∀ q, src ≠ .ext q) →
      ∀ e ∈ wordCompareSrcOps r src, evalWordSrc (encodeWord e.1) src s = .ok (v, s1) →
        Answers (exec e.1 s) (FlagsOutcome s s1 (specFlags e.2 (s.reg16 r) v s.flags) src.words)) ∧
    ∀ (r : Reg16) (q : Reg8) (s : State), ∀ e ∈ wordCompareSrcOps r (.ext q),
      (Config.ext16Select (encodeWord e.1) = .sext ∧
          Answers (exec e.1 s) (FlagsOutcome s s (specFlags e.2 (s.reg16 r) ((s.reg8 q).signExtend 16) s.flags) 1)) ∨
        (Config.ext16Select (encodeWord e.1) = .zext ∧ exec e.1 s = .refused .unassignedEncoding)

/-- O43: `cmp` with an immediate, and `cmp` and `test` with `[zp]`, both sizes. Choices: log 1, log 15. -/
def Obligations.CompareValueFlags : Prop :=
  ∀ (imm : BitVec 6) (zp : BitVec 7) (s : State),
    (∀ r : Reg8, Answers (exec (.cmp8RegImm r imm) s)
      (FlagsOutcome s s (specFlags .sub (s.reg8 r) (BitVec.ofInt 8 imm.toInt) s.flags) 1)) ∧
      (∀ r : Reg16, Answers (exec (.cmp16RegImm r imm) s)
        (FlagsOutcome s s (specFlags .sub (s.reg16 r) (BitVec.ofInt 16 imm.toInt) s.flags) 1)) ∧
      (∀ r : Reg8, ∀ e ∈ byteCompareZpOps r zp,
        Answers (exec e.1 s) (FlagsOutcome s s (specFlags e.2 (s.reg8 r) (s.readByte (zpByteAddr zp)) s.flags) 1)) ∧
      ∀ r : Reg16, ∀ e ∈ wordCompareZpOps r zp,
        Answers (exec e.1 s) (FlagsOutcome s s (specFlags e.2 (s.reg16 r) (wordLocValue (.mem (zpWordAddr zp)) s) s.flags) 1)

/-- O44: after `cmp x, y`, of either size and in every form, each condition holds exactly when its name says so of `x`
and `y`. Choices: log 1, log 3, log 15. -/
def Obligations.ConditionsAfterCompare : Prop :=
  (∀ (r : Reg8) (src : ByteSrc) (s s1 : State) (v : Byte), byteSrcPointer src ≠ some r.pair →
      evalByteSrc src s = .ok (v, s1) →
      Answers (exec (.cmp8RegSrc r src) s) fun t => ConditionsMean (s.reg8 r) v t.flags) ∧
    (∀ (r : Reg16) (src : WordSrc) (s s1 : State) (v : Word), wordSrcPointer src ≠ some r → (∀ q, src ≠ .ext q) →
      evalWordSrc (encodeWord (.cmp16RegSrc r src)) src s = .ok (v, s1) →
      Answers (exec (.cmp16RegSrc r src) s) fun t => ConditionsMean (s.reg16 r) v t.flags) ∧
    (∀ (r : Reg16) (q : Reg8) (s : State),
      (Config.ext16Select (encodeWord (.cmp16RegSrc r (.ext q))) = .sext ∧
          Answers (exec (.cmp16RegSrc r (.ext q)) s) fun t =>
            ConditionsMean (s.reg16 r) ((s.reg8 q).signExtend 16) t.flags) ∨
        (Config.ext16Select (encodeWord (.cmp16RegSrc r (.ext q))) = .zext ∧
          exec (.cmp16RegSrc r (.ext q)) s = .refused .unassignedEncoding)) ∧
    ∀ (imm : BitVec 6) (zp : BitVec 7) (r : Reg8) (k : Reg16) (s : State),
      (Answers (exec (.cmp8RegImm r imm) s) fun t => ConditionsMean (s.reg8 r) (BitVec.ofInt 8 imm.toInt) t.flags) ∧
        (Answers (exec (.cmp16RegImm k imm) s) fun t => ConditionsMean (s.reg16 k) (BitVec.ofInt 16 imm.toInt) t.flags) ∧
        (Answers (exec (.cmp8RegZp r zp) s) fun t => ConditionsMean (s.reg8 r) (s.readByte (zpByteAddr zp)) t.flags) ∧
        Answers (exec (.cmp16RegZp k zp) s) fun t =>
          ConditionsMean (s.reg16 k) (wordLocValue (.mem (zpWordAddr zp)) s) t.flags

/-! ### Shifts -/

/-- O45: the effective count of every shift form: 4 bits of the raw count for 16-bit shifts and for `shr` and `sar`,
else 3; the raw count is the value of `src8`, or `imm4` with zeros above it. Choices: log 4, log 15. -/
def Obligations.ShiftCounts : Prop :=
  (∀ (op : ShiftOp) (q : Byte), shiftCount8 op q = if op = .shr ∨ op = .sar then q.toNat % 16 else q.toNat % 8) ∧
    (∀ q : Byte, shiftCount16 q = q.toNat % 16) ∧
    (∀ (r : Reg8) (src : Src8) (s s1 : State) (q : Byte), src8Pointer src ≠ some r.pair → evalSrc8 1 src s = .ok (q, s1) →
      ∀ e ∈ byteShiftSrcOps r src, ∃ t, exec e.1 s = .next t ∧ t.reg8 r = shift e.2 (s.reg8 r) (shiftCount8 e.2 q)) ∧
    (∀ (r : Reg16) (src : Src8) (s s1 : State) (q : Byte), src8Pointer src ≠ some r →
      evalSrc8 src8StepWord src s = .ok (q, s1) →
      ∀ e ∈ wordShiftSrcOps r src, ∃ t, exec e.1 s = .next t ∧ t.reg16 r = shift e.2 (s.reg16 r) (shiftCount16 q)) ∧
    (∀ (r : Reg8) (imm : BitVec 4) (s : State), ∀ e ∈ byteShiftImmOps r imm, ∃ t, exec e.1 s = .next t ∧
      t.reg8 r = shift e.2 (s.reg8 r) (shiftCount8 e.2 (BitVec.ofNat 8 imm.toNat))) ∧
    ∀ (r : Reg16) (imm : BitVec 4) (s : State), ∀ e ∈ wordShiftImmOps r imm, ∃ t, exec e.1 s = .next t ∧
      t.reg16 r = shift e.2 (s.reg16 r) (shiftCount16 (BitVec.ofNat 8 imm.toNat))

/-- O46: the five 8-bit `shift reg, src8`. Choices: log 5, log 15, log 19. -/
def Obligations.ByteShiftSrcResult : Prop :=
  ∀ (r : Reg8) (src : Src8) (s s1 : State) (q : Byte), src8Pointer src ≠ some r.pair →
    evalSrc8 1 src s = .ok (q, s1) →
    ∀ e ∈ byteShiftSrcOps r src, Answers (exec e.1 s)
      (ByteShiftOutcome s s1 r (specShift e.2 (s.reg8 r) (specCount8 e.2 q)) src.words)

/-- O47: the five 16-bit `shift reg, src8`. Choices: log 4, log 5, log 15, log 19. -/
def Obligations.WordShiftSrcResult : Prop :=
  ∀ (r : Reg16) (src : Src8) (s s1 : State) (q : Byte), src8Pointer src ≠ some r →
    evalSrc8 src8StepWord src s = .ok (q, s1) →
    ∀ e ∈ wordShiftSrcOps r src, Answers (exec e.1 s)
      (WordShiftOutcome s s1 r (specShift e.2 (s.reg16 r) (q.toNat % 16)) src.words)

/-- O48: the four `shift reg, imm4` of both sizes. Choices: log 5, log 15, log 19. -/
def Obligations.ShiftImmResult : Prop :=
  ∀ (imm : BitVec 4) (s : State),
    (∀ r : Reg8, ∀ e ∈ byteShiftImmOps r imm, Answers (exec e.1 s)
      (ByteShiftOutcome s s r (specShift e.2 (s.reg8 r) (if e.2 = .shr ∨ e.2 = .sar then imm.toNat else imm.toNat % 8)) 1)) ∧
      ∀ r : Reg16, ∀ e ∈ wordShiftImmOps r imm, Answers (exec e.1 s)
        (WordShiftOutcome s s r (specShift e.2 (s.reg16 r) imm.toNat) 1)

/-! ### Multiply -/

/-- O49: the 8-bit `mul`, both forms: the exact product, its low byte in `reg`, its high byte in `h` unless `reg` is
`h`. Choices: log 2, log 5, log 15, log 18, log 19. -/
def Obligations.ByteMulResult : Prop :=
  (∀ (r : Reg8) (src : Src8) (s s1 : State) (q : Byte), src8Pointer src ≠ some r.pair → src8Pointer src ≠ some .hg →
      evalSrc8 1 src s = .ok (q, s1) →
      Answers (exec (.mul8RegSrc8 r src) s) (ByteMulOutcome s s1 r ((s.reg8 r).toNat * q.toNat) src.words)) ∧
    ∀ (r : Reg8) (imm : BitVec 6) (s : State),
      Answers (exec (.mul8RegImm r imm) s) (ByteMulOutcome s s r ((s.reg8 r).toNat * imm.toNat) 1)

/-- O50: the 16-bit `mul`, both forms: the low word in `reg`, the top byte in `h` unless `reg` is `hg`. Choices: log
2, log 4, log 5, log 15, log 18, log 19. -/
def Obligations.WordMulResult : Prop :=
  (∀ (r : Reg16) (src : Src8) (s s1 : State) (q : Byte), src8Pointer src ≠ some r → src8Pointer src ≠ some .hg →
      evalSrc8 src8StepWord src s = .ok (q, s1) →
      Answers (exec (.mul16RegSrc8 r src) s) (WordMulOutcome s s1 r ((s.reg16 r).toNat * q.toNat) src.words)) ∧
    ∀ (r : Reg16) (imm : BitVec 6) (s : State),
      Answers (exec (.mul16RegImm r imm) s) (WordMulOutcome s s r ((s.reg16 r).toNat * imm.toNat) 1)

/-! ### Branches, jumps and calls -/

/-- O51: the eight branches on one flag: their words, and that each goes to `pc + 2*imm8` where its flag says so and
to the next instruction where not, changing nothing but `pc`. Choices: log 15. -/
def Obligations.BranchOnOneFlag : Prop :=
  ∀ (imm : BitVec 8), ∀ e ∈ conditionalBranches imm,
    (∀ x : Word, decodeWords (0#4 ++ e.2.1 ++ imm) x = some e.1) ∧
      ∀ (s : State),
        (e.2.2 s.flags → Answers (exec e.1 s) (PcOutcome s s (s.pc + BitVec.ofInt 16 (2 * imm.toInt)))) ∧
          (¬ e.2.2 s.flags → Answers (exec e.1 s) (PcOutcome s s (s.pc + 2)))

/-- O52: the four branches on two flags. Choices: log 15. -/
def Obligations.BranchOnTwoFlags : Prop :=
  ∀ (imm : BitVec 8), ∀ e ∈ orderedBranches imm,
    (∀ x : Word, decodeWords (0#4 ++ e.2.1 ++ imm) x = some e.1) ∧
      ∀ (s : State),
        (e.2.2 s.flags → Answers (exec e.1 s) (PcOutcome s s (s.pc + BitVec.ofInt 16 (2 * imm.toInt)))) ∧
          (¬ e.2.2 s.flags → Answers (exec e.1 s) (PcOutcome s s (s.pc + 2)))

/-- O53: `branch always`: its word, its target, and that it changes nothing but `pc`; with offset 0 the state is a
fixed point. Choices: log 15. -/
def Obligations.BranchAlwaysResult : Prop :=
  ∀ (imm : BitVec 8),
    (∀ x : Word, decodeWords (0#8 ++ imm) x = some (.branchAlways imm)) ∧
      ∀ (s : State), Answers (exec (.branchAlways imm) s) (PcOutcome s s (s.pc + BitVec.ofInt 16 (2 * imm.toInt))) ∧
        (imm = 0 → exec (.branchAlways imm) s = .next s)

/-- O54: `branch call` pushes the address of the next instruction and branches; without room it is refused. Choices:
log 1, log 15. Choices: log 1, log 15. -/
def Obligations.BranchCallResult : Prop :=
  ∀ (imm : BitVec 8) (s : State),
    (s.p.toNat < 2 → exec (.branchCall imm) s = .refused .stackWrap) ∧
      (2 ≤ s.p.toNat → s.mem.wf = true →
        Answers (exec (.branchCall imm) s) (CallOutcome s s (s.pc + 2) (s.pc + BitVec.ofInt 16 (2 * imm.toInt))))

/-- O55: `jump src16` and `jump [zp]` set `pc` to the word that the operand gives, and refuse an odd one. Choices: log
1, log 3, log 15. -/
def Obligations.JumpResult : Prop :=
  (∀ (src : WordSrc) (s s1 : State) (v : Word), evalWordSrc (encodeWord (.jumpSrc src)) src s = .ok (v, s1) →
      (v.getLsbD 0 = false → Answers (exec (.jumpSrc src) s) (PcOutcome s s1 v)) ∧
        (v.getLsbD 0 = true → exec (.jumpSrc src) s = .refused .oddPc)) ∧
    ∀ (zp : BitVec 7) (s : State) (v : Word), v = joinBytes (s.mem.read (2 * zp.toNat + 1)) (s.mem.read (2 * zp.toNat)) →
      (v.getLsbD 0 = false → Answers (exec (.jumpZp zp) s) (PcOutcome s s v)) ∧
        (v.getLsbD 0 = true → exec (.jumpZp zp) s = .refused .oddPc)

/-- O56: `call src16` reads its operand, pushes the address of the next instruction, and jumps; an operand that uses
the stack pointer, a stack without room, and an odd target are refused. Choices: log 1, log 3, log 15, log 18. -/
def Obligations.CallResult : Prop :=
  ∀ (src : WordSrc) (s s1 : State) (v : Word),
    (src = .pop ∨ src = .sp → exec (.callSrc src) s = .refused .callSpOperand) ∧
      (src ≠ .pop → src ≠ .sp → evalWordSrc (encodeWord (.callSrc src)) src s = .ok (v, s1) →
        (s.p.toNat < 2 → exec (.callSrc src) s = .refused .stackWrap) ∧
          (2 ≤ s.p.toNat → v.getLsbD 0 = true → exec (.callSrc src) s = .refused .oddPc) ∧
          (2 ≤ s.p.toNat → v.getLsbD 0 = false → s.mem.wf = true → Answers (exec (.callSrc src) s)
            (CallOutcome s s1 (s.pc + BitVec.ofNat 16 (2 * src.words)) v)))

/-- O57: `ret`: its word, and that it pops a word and jumps to it; a stack without a word and an odd word are refused.
Choices: log 1, log 14, log 15. -/
def Obligations.RetResult : Prop :=
  (∀ x : Word, decodeWords 0x2005 x = some .ret) ∧
    ∀ (s : State) (v : Word), v = joinBytes (s.mem.read (0x101 + s.p.toNat)) (s.mem.read (0x100 + s.p.toNat)) →
      (0xfe < s.p.toNat → exec .ret s = .refused .stackWrap) ∧
        (s.p.toNat ≤ 0xfe → v.getLsbD 0 = true → exec .ret s = .refused .oddPc) ∧
        (s.p.toNat ≤ 0xfe → v.getLsbD 0 = false → Answers (exec .ret s) fun t =>
          t.pc = v ∧ t.p = s.p + 2 ∧ SameRegs s t ∧ t.flags = s.flags ∧ t.draws = s.draws ∧ KeepsMemory s t)

/-- O58: `ret` right after a call of either kind goes back to the instruction after the call, with the stack pointer
as it was before the call. Choices: log 1, log 3, log 14, log 15. -/
def Obligations.ReturnAfterCall : Prop :=
  ∀ (i : Instr) (s t : State), (∃ src, i = .callSrc src) ∨ (∃ imm, i = .branchCall imm) → Invariant s →
    exec i s = .next t →
    Answers (exec .ret t) fun u => u.pc = s.pc + BitVec.ofNat 16 (2 * i.words) ∧ u.p = s.p ∧ SameRegs t u ∧ u.mem = t.mem

/-- O59: an instruction whose operand cannot be evaluated stops with the operand's own reason, and changes nothing.
Choices: log 4, log 15. -/
def Obligations.RefusedOperandStops : Prop :=
  ∀ (s : State) (e : Refusal),
    (∀ (r : Reg16) (src : WordSrc), wordSrcPointer src ≠ some r → ∀ i ∈ wordSrcInstrs r src,
        evalWordSrc (encodeWord i) src s = .error e → exec i s = .refused e) ∧
      (∀ (dst : ByteDest) (r : Reg8), byteDestPointer dst ≠ some r.pair → evalByteDest .write dst s = .error e →
        exec (.mov8DestReg dst r) s = .refused e) ∧
      (∀ (dst : WordDest) (r : Reg16), wordDestPointer dst ≠ some r → ∀ i ∈ wordModifyInstrs dst r,
        evalWordDest .modify dst s = .error e → exec i s = .refused e) ∧
      (∀ (dst : WordDest) (r : Reg16) (s1 : State), wordDestPointer dst ≠ some r → ∀ i ∈ wordModifyInstrs dst r,
        evalWordDest .modify dst s = .ok (.mem 0xffff, s1) → exec i s = .refused .accessWrap) ∧
      (∀ (dst : WordDest) (r : Reg16), wordDestPointer dst ≠ some r → evalWordDest .write dst s = .error e →
        exec (.mov16DestReg dst r) s = .refused e) ∧
      (∀ (dst : WordDest) (r : Reg16) (s1 : State), wordDestPointer dst ≠ some r →
        evalWordDest .write dst s = .ok (.mem 0xffff, s1) → exec (.mov16DestReg dst r) s = .refused .accessWrap) ∧
      (∀ r : Reg16, s.p = 0xff → src8StepWord = 1 ∨ ∀ i ∈ wordSrc8Instrs r .pop, exec i s = .refused .stackWrap) ∧
      ∀ (src : WordSrc),
        (evalWordSrc (encodeWord (.jumpSrc src)) src s = .error e → exec (.jumpSrc src) s = .refused e) ∧
          (src ≠ .pop → evalWordSrc (encodeWord (.callSrc src)) src s = .error e → exec (.callSrc src) s = .refused e)

/-- O60: `mul` never has `a`, `b` or `ba` as `reg`: with `rr` = 00 its slot holds the absolute jumps. -/
def Obligations.MulHasNoFirstPair : Prop :=
  ∀ (w x : Word),
    (∀ (src : Src8) (imm : BitVec 6) (r : Reg8), r = .a ∨ r = .b →
      decodeWords w x ≠ some (.mul8RegSrc8 r src) ∧ decodeWords w x ≠ some (.mul8RegImm r imm)) ∧
      (∀ (src : Src8) (imm : BitVec 6),
        decodeWords w x ≠ some (.mul16RegSrc8 .ba src) ∧ decodeWords w x ≠ some (.mul16RegImm .ba imm)) ∧
      (w.extractLsb' 7 9 = 0b001000000#9 →
        (∃ src, decodeWords w x = some (.jumpSrc src)) ∨ (∃ src, decodeWords w x = some (.callSrc src)) ∨
          decodeWords w x = some .ret) ∧
      (w.extractLsb' 7 9 = 0b000100000#9 → ∃ zp, decodeWords w x = some (.jumpZp zp))
end

