-- ==== Sys2Proof/Laws/Flags.lean ====
section
/-! SUPPORT. The adder's carry, signed carry and result in the source's words: what each binary operation computes
is what its definition says (42_binop.md R140 to R143); the counts and results of shifts (43_shift.md). -/

namespace Sys2Proof.Machine

theorem adder_result {w : Nat} (x y : BitVec w) (cin : Bool) :
    (adder x y cin).result = x + y + BitVec.ofNat w cin.toNat := by
  apply BitVec.eq_of_toNat_eq
  cases cin <;>
    simp [adder, BitVec.toNat_add, BitVec.toNat_setWidth, Nat.mod_mod_of_dvd _ (show 2 ^ w ∣ 2 ^ (w + 1) from ⟨2, by rw [pow_succ]⟩)]

theorem adder_carry {w : Nat} (x y : BitVec w) (cin : Bool) :
    (adder x y cin).carry = decide (2 ^ w ≤ x.toNat + y.toNat + cin.toNat) := by
  have hx := x.isLt
  have hy := y.isLt
  have h2 : 2 ^ (w + 1) = 2 * 2 ^ w := by rw [pow_succ]; ring
  have h1 : 1 ≤ 2 ^ w := Nat.one_le_two_pow
  have hc : cin.toNat ≤ 1 := Bool.toNat_le cin
  have ht : (x.setWidth (w + 1) + y.setWidth (w + 1) + (BitVec.ofBool cin).setWidth (w + 1)).toNat
      = x.toNat + y.toNat + cin.toNat := by
    simp only [BitVec.toNat_add, BitVec.toNat_setWidth, BitVec.toNat_ofBool]
    rw [Nat.mod_eq_of_lt (by omega : x.toNat < 2 ^ (w + 1)), Nat.mod_eq_of_lt (by omega : y.toNat < 2 ^ (w + 1)),
      Nat.mod_eq_of_lt (by omega : cin.toNat < 2 ^ (w + 1)), Nat.mod_eq_of_lt (by omega : x.toNat + y.toNat < 2 ^ (w + 1)),
      Nat.mod_eq_of_lt (by omega)]
  show BitVec.getLsbD _ w = _
  rw [← BitVec.testBit_toNat, ht, Nat.testBit_eq_decide_div_mod_eq]
  congr 1
  apply propext
  constructor
  · intro h
    by_contra hlt
    rw [Nat.div_eq_of_lt (by omega)] at h
    exact absurd h (by decide)
  · intro h
    have : (x.toNat + y.toNat + cin.toNat) / 2 ^ w = 1 := by
      apply Nat.div_eq_of_lt_le <;> omega
    rw [this]

theorem adder_signedCarry {w : Nat} (x y : BitVec w) (cin : Bool) :
    (adder x y cin).signedCarry = decide (0 ≤ x.toInt + y.toInt + cin.toInt) := rfl

theorem toInt_compl {w : Nat} (hw : 0 < w) (x : BitVec w) : (~~~x).toInt = -x.toInt - 1 := by
  have hx := x.isLt
  obtain ⟨n, rfl⟩ : ∃ n, w = n + 1 := ⟨w - 1, by omega⟩
  have h2 : 2 ^ (n + 1) = 2 * 2 ^ n := by rw [pow_succ]; ring
  rw [BitVec.toInt_eq_toNat_cond, BitVec.toInt_eq_toNat_cond, BitVec.toNat_not, h2]
  rw [h2] at hx
  generalize 2 ^ n = m at *
  split <;> split <;> omega

theorem compl_eq {w : Nat} (x : BitVec w) : ~~~x = -x - 1 := by
  have : ~~~x + 1 = -x := (BitVec.neg_eq_not_add x).symm
  rw [← this, BitVec.add_sub_cancel]

/-- The result of every binary operation is the source's definition of it (R140). -/
theorem binop_result {w : Nat} (op : BinOp) (d s : BitVec w) (f : Flags) :
    (binop op d s f).1 = specResult op d s f := by
  have h1 : BitVec.ofNat w 1 = 1 := rfl
  have h0 : BitVec.ofNat w 0 = 0 := rfl
  cases op <;>
    simp only [binop, arithmetic, logic, specResult, adder_result, Bool.toNat_true, Bool.toNat_false, carryNum, compl_eq,
      h1, h0] <;>
    ring

/-- The carry after every binary operation (R141, R143). -/
theorem binop_carry {w : Nat} (op : BinOp) (d s : BitVec w) (f : Flags) :
    (binop op d s f).2.c = specCarry op d s f := by
  have hd := d.isLt
  have hs := s.isLt
  have h0 : (0 : BitVec w).toNat = 0 := BitVec.toNat_zero
  cases op <;> simp only [binop, arithmetic, logic, specCarry]
  all_goals
    rw [adder_carry]
    apply decide_eq_decide.mpr
    simp only [BitVec.toNat_not, Bool.toNat_true, Bool.toNat_false, carryNum, h0] <;> omega

/-- The signed carry after every binary operation (R142, R143). -/
theorem binop_signedCarry {w : Nat} (hw : 0 < w) (op : BinOp) (d s : BitVec w) (f : Flags) :
    (binop op d s f).2.v = specSignedCarry op d s f := by
  have hi : f.c.toInt = (f.c.toNat : Int) := by cases f.c <;> rfl
  have h0 : (0 : BitVec w).toInt = 0 := BitVec.toInt_zero
  cases op <;> simp only [binop, arithmetic, logic, specSignedCarry]
  all_goals
    rw [adder_signedCarry]
    apply decide_eq_decide.mpr
    simp only [toInt_compl hw, Bool.toInt_true, Bool.toInt_false, carryNum, hi, h0] <;> omega

/-- Zero and sign after every binary operation come from its result (R143). -/
theorem binop_zeroSign {w : Nat} (op : BinOp) (d s : BitVec w) (f : Flags) :
    (binop op d s f).2.z = decide ((binop op d s f).1 = 0) ∧ (binop op d s f).2.s = (binop op d s f).1.msb := by
  cases op <;> exact ⟨rfl, rfl⟩

/-- Every binary operation gives the result and the flags of the source's definition (R140 to R143). -/
theorem binop_eq {w : Nat} (hw : 0 < w) (op : BinOp) (d s : BitVec w) (f : Flags) :
    binop op d s f = (specResult op d s f, specFlags op d s f) := by
  refine Prod.ext (binop_result op d s f) ?_
  obtain ⟨hz, hsign⟩ := binop_zeroSign op d s f
  have hc := binop_carry op d s f
  have hv := binop_signedCarry hw op d s f
  rw [binop_result] at hz hsign
  show (binop op d s f).2 = specFlags op d s f
  rw [specFlags, ← hz, ← hsign, ← hv, ← hc]

/-! ### Shifts -/

/-- The effective count of an 8-bit shift is the raw count's bottom 4 or 3 bits (R182). -/
theorem shiftCount8_eq (op : ShiftOp) (q : Byte) : shiftCount8 op q = specCount8 op q := by
  cases op <;> simp [shiftCount8, specCount8, BitVec.extractLsb'_toNat]

/-- The effective count of a 16-bit shift is the raw count's bottom 4 bits (R182). -/
theorem shiftCount16_eq (q : Byte) : shiftCount16 q = q.toNat % 16 := by
  simp [shiftCount16, BitVec.extractLsb'_toNat]

/-- The result of a shift by a count below the width, or of a right shift by any count, is the number the spec gives
(R185 to R189). -/
theorem shift_eq {w : Nat} (op : ShiftOp) (x : BitVec w) (k : Nat) (hk : k < w ∨ op = .shr ∨ op = .sar) :
    shift op x k = specShift op x k := by
  cases op with
  | shl => apply BitVec.eq_of_toNat_eq; simp [shift, specShift, Nat.shiftLeft_eq]
  | shr =>
    apply BitVec.eq_of_toNat_eq
    simp only [shift, specShift, BitVec.toNat_ushiftRight, Nat.shiftRight_eq_div_pow, BitVec.toNat_ofNat]
    rw [Nat.mod_eq_of_lt (lt_of_le_of_lt (Nat.div_le_self _ _) x.isLt)]
  | sar =>
    simp only [shift, specShift, BitVec.sshiftRight, Int.shiftRight_eq_div_pow]
    norm_cast
  | rol =>
    have hk : k < w := by simpa using hk
    simp only [shift, specShift]
    split
    · next h0 => subst h0; simp [BitVec.rotateLeft, BitVec.rotateLeftAux, BitVec.ushiftRight_eq_zero]
    · apply BitVec.eq_of_toNat_eq
      have h1 : x.toNat / 2 ^ (w - k) < 2 ^ w := lt_of_le_of_lt (Nat.div_le_self _ _) x.isLt
      have h2 : x.toNat * 2 ^ k % 2 ^ w < 2 ^ w := Nat.mod_lt _ (Nat.two_pow_pos w)
      rw [BitVec.toNat_rotateLeft, Nat.mod_eq_of_lt hk, BitVec.toNat_ofNat, Nat.mod_eq_of_lt (Nat.or_lt_two_pow h2 h1),
        Nat.shiftLeft_eq, Nat.shiftRight_eq_div_pow]
  | ror =>
    have hk : k < w := by simpa using hk
    simp only [shift, specShift]
    split
    · next h0 => subst h0; simp [BitVec.rotateRight, BitVec.rotateRightAux]
    · apply BitVec.eq_of_toNat_eq
      have h1 : x.toNat / 2 ^ k < 2 ^ w := lt_of_le_of_lt (Nat.div_le_self _ _) x.isLt
      have h2 : x.toNat * 2 ^ (w - k) % 2 ^ w < 2 ^ w := Nat.mod_lt _ (Nat.two_pow_pos w)
      rw [BitVec.toNat_rotateRight, Nat.mod_eq_of_lt hk, BitVec.toNat_ofNat, Nat.mod_eq_of_lt (Nat.or_lt_two_pow h1 h2),
        Nat.shiftLeft_eq, Nat.shiftRight_eq_div_pow]

/-- Every 8-bit shift gives the number the spec gives (R182, R185 to R189). -/
theorem shift8_eq (op : ShiftOp) (x q : Byte) :
    shift op x (shiftCount8 op q) = specShift op x (specCount8 op q) := by
  rw [shiftCount8_eq]
  apply shift_eq
  cases op <;> simp [specCount8] <;> omega

/-- Every 16-bit shift gives the number the spec gives (R182, R185 to R189). -/
theorem shift16_eq (op : ShiftOp) (x : Word) (q : Byte) :
    shift op x (shiftCount16 q) = specShift op x (q.toNat % 16) := by
  rw [shiftCount16_eq]
  exact shift_eq _ _ _ (.inl (by omega))

/-! ### Multiply -/

/-- The exact product of an 8-bit multiply, as a number (R201). -/
theorem product8_toNat (x s : Byte) : (product8 x s).toNat = x.toNat * s.toNat := by
  have hx := x.isLt
  have hs := s.isLt
  have : x.toNat * s.toNat ≤ 255 * 255 := Nat.mul_le_mul (by omega) (by omega)
  simp only [product8, BitVec.toNat_mul, BitVec.toNat_setWidth]
  rw [Nat.mod_eq_of_lt (by omega : x.toNat < 2 ^ 16), Nat.mod_eq_of_lt (by omega : s.toNat < 2 ^ 16),
    Nat.mod_eq_of_lt (by omega)]

/-- The exact product of a 16-bit multiply, as a number (R201). -/
theorem product16_toNat (x : Word) (s : Byte) : (product16 x s).toNat = x.toNat * s.toNat := by
  have hx := x.isLt
  have hs := s.isLt
  have : x.toNat * s.toNat ≤ 65535 * 255 := Nat.mul_le_mul (by omega) (by omega)
  simp only [product16, BitVec.toNat_mul, BitVec.toNat_setWidth]
  rw [Nat.mod_eq_of_lt (by omega : x.toNat < 2 ^ 24), Nat.mod_eq_of_lt (by omega : s.toNat < 2 ^ 24),
    Nat.mod_eq_of_lt (by omega)]

end Sys2Proof.Machine
end

