-- ==== Sys2Proof/Laws/State.lean ====
section
/-! SUPPORT. What each update of the state does to each field: one small lemma per field per update, so that no
proof unfolds an update. -/

namespace Sys2Proof.Machine

/-! ### Halves of words -/

@[simp] theorem hiByte_joinBytes (hi lo : Byte) : hiByte (joinBytes hi lo) = hi := by
  unfold hiByte joinBytes
  ext i hi'
  simp only [BitVec.getElem_extractLsb', BitVec.getLsbD_append]
  rw [if_neg (by omega)]
  simp [BitVec.getLsbD_eq_getElem hi']

@[simp] theorem loByte_joinBytes (hi lo : Byte) : loByte (joinBytes hi lo) = lo := by
  unfold loByte joinBytes
  ext i hi'
  simp only [BitVec.getElem_extractLsb', BitVec.getLsbD_append]
  rw [if_pos (by omega)]
  simp [BitVec.getLsbD_eq_getElem hi']

@[simp] theorem joinBytes_hiByte_loByte (w : Word) : joinBytes (hiByte w) (loByte w) = w := by
  unfold hiByte loByte joinBytes
  ext i hi'
  simp only [BitVec.getElem_append, BitVec.getElem_extractLsb']
  split
  · simp [BitVec.getLsbD_eq_getElem hi']
  · rw [Nat.add_sub_cancel' (by omega), BitVec.getLsbD_eq_getElem hi']

@[simp] theorem hiByte_stackAddr (p : Byte) : hiByte (stackAddr p) = 1 := hiByte_joinBytes _ _

@[simp] theorem loByte_stackAddr (p : Byte) : loByte (stackAddr p) = p := loByte_joinBytes _ _

@[simp] theorem wordOfBytes_bytesOfWord (w : Word) : wordOfBytes (bytesOfWord w).1 (bytesOfWord w).2 = w :=
  joinBytes_hiByte_loByte w

@[simp] theorem wordOfBytes_halves (w : Word) : wordOfBytes (loByte w) (hiByte w) = w := wordOfBytes_bytesOfWord w

@[simp] theorem bytesOfWord_fst (w : Word) : (bytesOfWord w).1 = loByte w := rfl

@[simp] theorem bytesOfWord_snd (w : Word) : (bytesOfWord w).2 = hiByte w := rfl

/-! ### Registers and pairs -/

@[simp] theorem upperHalf_pair (k : Reg16) : (upperHalf k).pair = k := by cases k <;> rfl

@[simp] theorem lowerHalf_pair (k : Reg16) : (lowerHalf k).pair = k := by cases k <;> rfl

theorem upperHalf_ne_lowerHalf (j k : Reg16) : upperHalf j ≠ lowerHalf k := by cases j <;> cases k <;> decide

theorem upperHalf_inj {j k : Reg16} : upperHalf j = upperHalf k ↔ j = k := by cases j <;> cases k <;> decide

theorem lowerHalf_inj {j k : Reg16} : lowerHalf j = lowerHalf k ↔ j = k := by cases j <;> cases k <;> decide

/-- A register is one of the two halves of its pair. -/
theorem half_of_pair (r : Reg8) : r = upperHalf r.pair ∨ r = lowerHalf r.pair := by cases r <;> decide

@[simp] theorem reg8_setReg8 (s : State) (r q : Reg8) (v : Byte) :
    (s.setReg8 r v).reg8 q = if q = r then v else s.reg8 q := by
  cases r <;> cases q <;> rfl

@[simp] theorem setReg8_pc (s : State) (r : Reg8) (v : Byte) : (s.setReg8 r v).pc = s.pc := by
  cases r <;> rfl

@[simp] theorem setReg8_p (s : State) (r : Reg8) (v : Byte) : (s.setReg8 r v).p = s.p := by
  cases r <;> rfl

@[simp] theorem setReg8_flags (s : State) (r : Reg8) (v : Byte) : (s.setReg8 r v).flags = s.flags := by
  cases r <;> rfl

@[simp] theorem setReg8_mem (s : State) (r : Reg8) (v : Byte) : (s.setReg8 r v).mem = s.mem := by
  cases r <;> rfl

@[simp] theorem setReg8_stored (s : State) (r : Reg8) (v : Byte) : (s.setReg8 r v).stored = s.stored := by
  cases r <;> rfl

@[simp] theorem setReg8_draws (s : State) (r : Reg8) (v : Byte) : (s.setReg8 r v).draws = s.draws := by
  cases r <;> rfl

@[simp] theorem reg8_setReg16 (s : State) (k : Reg16) (v : Word) (r : Reg8) :
    (s.setReg16 k v).reg8 r =
      if r = lowerHalf k then loByte v else if r = upperHalf k then hiByte v else s.reg8 r := by
  simp [State.setReg16]

/-- A pair written reads back; the other pairs stay (R17, R18). -/
@[simp] theorem reg16_setReg16 (s : State) (j k : Reg16) (v : Word) :
    (s.setReg16 k v).reg16 j = if j = k then v else s.reg16 j := by
  unfold State.reg16
  simp only [reg8_setReg16, upperHalf_ne_lowerHalf, (upperHalf_ne_lowerHalf _ _).symm, lowerHalf_inj, upperHalf_inj,
    if_false]
  split <;> simp

/-- A register outside a pair is not changed by writing the pair. -/
theorem reg8_setReg16_of_ne {s : State} {k : Reg16} {v : Word} {r : Reg8} (h : r.pair ≠ k) :
    (s.setReg16 k v).reg8 r = s.reg8 r := by
  rw [reg8_setReg16, if_neg, if_neg] <;> (rintro rfl; simp at h)

/-- A pair that does not hold a register is not changed by writing the register. -/
theorem reg16_setReg8_of_ne {s : State} {k : Reg16} {v : Byte} {r : Reg8} (h : r.pair ≠ k) :
    (s.setReg8 r v).reg16 k = s.reg16 k := by
  unfold State.reg16
  rw [reg8_setReg8, reg8_setReg8, if_neg, if_neg] <;> (rintro rfl; simp at h)

@[simp] theorem setReg16_pc (s : State) (k : Reg16) (v : Word) : (s.setReg16 k v).pc = s.pc := by
  simp [State.setReg16]

@[simp] theorem setReg16_p (s : State) (k : Reg16) (v : Word) : (s.setReg16 k v).p = s.p := by
  simp [State.setReg16]

@[simp] theorem setReg16_flags (s : State) (k : Reg16) (v : Word) : (s.setReg16 k v).flags = s.flags := by
  simp [State.setReg16]

@[simp] theorem setReg16_mem (s : State) (k : Reg16) (v : Word) : (s.setReg16 k v).mem = s.mem := by
  simp [State.setReg16]

@[simp] theorem setReg16_stored (s : State) (k : Reg16) (v : Word) : (s.setReg16 k v).stored = s.stored := by
  simp [State.setReg16]

@[simp] theorem setReg16_draws (s : State) (k : Reg16) (v : Word) : (s.setReg16 k v).draws = s.draws := by
  simp [State.setReg16]

/-! ### The other updates, field by field -/

@[simp] theorem setPc_pc (s : State) (t : Word) : (s.setPc t).pc = t := rfl

@[simp] theorem setPc_regs (s : State) (t : Word) : (s.setPc t).regs = s.regs := rfl

@[simp] theorem setPc_p (s : State) (t : Word) : (s.setPc t).p = s.p := rfl

@[simp] theorem setPc_flags (s : State) (t : Word) : (s.setPc t).flags = s.flags := rfl

@[simp] theorem setPc_mem (s : State) (t : Word) : (s.setPc t).mem = s.mem := rfl

@[simp] theorem setPc_stored (s : State) (t : Word) : (s.setPc t).stored = s.stored := rfl

@[simp] theorem setPc_draws (s : State) (t : Word) : (s.setPc t).draws = s.draws := rfl

@[simp] theorem setPc_reg8 (s : State) (t : Word) (r : Reg8) : (s.setPc t).reg8 r = s.reg8 r := rfl

@[simp] theorem setPc_reg16 (s : State) (t : Word) (k : Reg16) : (s.setPc t).reg16 k = s.reg16 k := rfl

@[simp] theorem advance_pc (s : State) (n : Nat) : (s.advance n).pc = s.npc n := rfl

@[simp] theorem advance_regs (s : State) (n : Nat) : (s.advance n).regs = s.regs := rfl

@[simp] theorem advance_p (s : State) (n : Nat) : (s.advance n).p = s.p := rfl

@[simp] theorem advance_flags (s : State) (n : Nat) : (s.advance n).flags = s.flags := rfl

@[simp] theorem advance_mem (s : State) (n : Nat) : (s.advance n).mem = s.mem := rfl

@[simp] theorem advance_stored (s : State) (n : Nat) : (s.advance n).stored = s.stored := rfl

@[simp] theorem advance_draws (s : State) (n : Nat) : (s.advance n).draws = s.draws := rfl

@[simp] theorem advance_reg8 (s : State) (n : Nat) (r : Reg8) : (s.advance n).reg8 r = s.reg8 r := rfl

@[simp] theorem advance_reg16 (s : State) (n : Nat) (k : Reg16) : (s.advance n).reg16 k = s.reg16 k := rfl

@[simp] theorem setP_p (s : State) (v : Byte) : (s.setP v).p = v := rfl

@[simp] theorem setP_regs (s : State) (v : Byte) : (s.setP v).regs = s.regs := rfl

@[simp] theorem setP_pc (s : State) (v : Byte) : (s.setP v).pc = s.pc := rfl

@[simp] theorem setP_flags (s : State) (v : Byte) : (s.setP v).flags = s.flags := rfl

@[simp] theorem setP_mem (s : State) (v : Byte) : (s.setP v).mem = s.mem := rfl

@[simp] theorem setP_stored (s : State) (v : Byte) : (s.setP v).stored = s.stored := rfl

@[simp] theorem setP_draws (s : State) (v : Byte) : (s.setP v).draws = s.draws := rfl

@[simp] theorem setP_reg8 (s : State) (v : Byte) (r : Reg8) : (s.setP v).reg8 r = s.reg8 r := rfl

@[simp] theorem setP_reg16 (s : State) (v : Byte) (k : Reg16) : (s.setP v).reg16 k = s.reg16 k := rfl

@[simp] theorem setFlags_flags (s : State) (f : Flags) : (s.setFlags f).flags = f := rfl

@[simp] theorem setFlags_regs (s : State) (f : Flags) : (s.setFlags f).regs = s.regs := rfl

@[simp] theorem setFlags_pc (s : State) (f : Flags) : (s.setFlags f).pc = s.pc := rfl

@[simp] theorem setFlags_p (s : State) (f : Flags) : (s.setFlags f).p = s.p := rfl

@[simp] theorem setFlags_mem (s : State) (f : Flags) : (s.setFlags f).mem = s.mem := rfl

@[simp] theorem setFlags_stored (s : State) (f : Flags) : (s.setFlags f).stored = s.stored := rfl

@[simp] theorem setFlags_draws (s : State) (f : Flags) : (s.setFlags f).draws = s.draws := rfl

@[simp] theorem setFlags_reg8 (s : State) (f : Flags) (r : Reg8) : (s.setFlags f).reg8 r = s.reg8 r := rfl

@[simp] theorem setFlags_reg16 (s : State) (f : Flags) (k : Reg16) : (s.setFlags f).reg16 k = s.reg16 k := rfl

@[simp] theorem drawn_draws (s : State) : (s.drawn).draws = s.draws + 1 := rfl

@[simp] theorem drawn_regs (s : State) : (s.drawn).regs = s.regs := rfl

@[simp] theorem drawn_pc (s : State) : (s.drawn).pc = s.pc := rfl

@[simp] theorem drawn_p (s : State) : (s.drawn).p = s.p := rfl

@[simp] theorem drawn_flags (s : State) : (s.drawn).flags = s.flags := rfl

@[simp] theorem drawn_mem (s : State) : (s.drawn).mem = s.mem := rfl

@[simp] theorem drawn_stored (s : State) : (s.drawn).stored = s.stored := rfl

@[simp] theorem drawn_reg8 (s : State) (r : Reg8) : (s.drawn).reg8 r = s.reg8 r := rfl

@[simp] theorem drawn_reg16 (s : State) (k : Reg16) : (s.drawn).reg16 k = s.reg16 k := rfl

@[simp] theorem setFlagsByte_flags (s : State) (w : Byte) : (s.setFlagsByte w).flags = flagsOfBits (w.extractLsb' 0 4) := rfl

@[simp] theorem setFlagsByte_regs (s : State) (w : Byte) : (s.setFlagsByte w).regs = s.regs := rfl

@[simp] theorem setFlagsByte_pc (s : State) (w : Byte) : (s.setFlagsByte w).pc = s.pc := rfl

@[simp] theorem setFlagsByte_p (s : State) (w : Byte) : (s.setFlagsByte w).p = s.p := rfl

@[simp] theorem setFlagsByte_mem (s : State) (w : Byte) : (s.setFlagsByte w).mem = s.mem := rfl

@[simp] theorem setFlagsByte_stored (s : State) (w : Byte) : (s.setFlagsByte w).stored = s.stored := rfl

@[simp] theorem setFlagsByte_draws (s : State) (w : Byte) : (s.setFlagsByte w).draws = s.draws := rfl

@[simp] theorem setFlagsByte_reg8 (s : State) (w : Byte) (r : Reg8) : (s.setFlagsByte w).reg8 r = s.reg8 r := rfl

@[simp] theorem setFlagsByte_reg16 (s : State) (w : Byte) (k : Reg16) : (s.setFlagsByte w).reg16 k = s.reg16 k := rfl

@[simp] theorem leaveFlags_shift_flags (s : State) : (s.leaveFlags .shift).flags = flagsOfBits s.draw := rfl

@[simp] theorem leaveFlags_mul_flags (s : State) : (s.leaveFlags .mul).flags = flagsOfBits s.draw := rfl

@[simp] theorem leaveFlags_not_flags (s : State) :
    (s.leaveFlags .not).flags = { s.flags with z := (flagsOfBits s.draw).z, s := (flagsOfBits s.draw).s } := rfl

@[simp] theorem leaveFlags_draws (s : State) (g : FlagsAfterGroup) : (s.leaveFlags g).draws = s.draws + 1 := rfl

@[simp] theorem leaveFlags_regs (s : State) (g : FlagsAfterGroup) : (s.leaveFlags g).regs = s.regs := rfl

@[simp] theorem leaveFlags_pc (s : State) (g : FlagsAfterGroup) : (s.leaveFlags g).pc = s.pc := rfl

@[simp] theorem leaveFlags_p (s : State) (g : FlagsAfterGroup) : (s.leaveFlags g).p = s.p := rfl

@[simp] theorem leaveFlags_mem (s : State) (g : FlagsAfterGroup) : (s.leaveFlags g).mem = s.mem := rfl

@[simp] theorem leaveFlags_stored (s : State) (g : FlagsAfterGroup) : (s.leaveFlags g).stored = s.stored := rfl

@[simp] theorem leaveFlags_reg8 (s : State) (g : FlagsAfterGroup) (r : Reg8) : (s.leaveFlags g).reg8 r = s.reg8 r := rfl

@[simp] theorem leaveFlags_reg16 (s : State) (g : FlagsAfterGroup) (k : Reg16) : (s.leaveFlags g).reg16 k = s.reg16 k := rfl

@[simp] theorem storeByte_mem (s : State) (a : Word) (v : Byte) :
    (s.storeByte a v).mem = s.mem.write a.toNat v := rfl

@[simp] theorem storeByte_stored (s : State) (a : Word) (v : Byte) :
    (s.storeByte a v).stored = insertAddr s.stored a.toNat := rfl

@[simp] theorem storeByte_regs (s : State) (a : Word) (v : Byte) : (s.storeByte a v).regs = s.regs := rfl

@[simp] theorem storeByte_pc (s : State) (a : Word) (v : Byte) : (s.storeByte a v).pc = s.pc := rfl

@[simp] theorem storeByte_p (s : State) (a : Word) (v : Byte) : (s.storeByte a v).p = s.p := rfl

@[simp] theorem storeByte_flags (s : State) (a : Word) (v : Byte) : (s.storeByte a v).flags = s.flags := rfl

@[simp] theorem storeByte_draws (s : State) (a : Word) (v : Byte) : (s.storeByte a v).draws = s.draws := rfl

@[simp] theorem storeByte_reg8 (s : State) (a : Word) (v : Byte) (r : Reg8) : (s.storeByte a v).reg8 r = s.reg8 r := rfl

@[simp] theorem storeByte_reg16 (s : State) (a : Word) (v : Byte) (k : Reg16) : (s.storeByte a v).reg16 k = s.reg16 k := rfl

end Sys2Proof.Machine
end

