-- ==== Sys2Proof/Laws/Memory.lean ====
section
/-! SUPPORT. The laws of memory and of sets of addresses: a read after a write, what a write leaves alone, and
that every operation keeps the canonical form. -/

namespace Sys2Proof.Machine

/-! ### Memory -/

/-- A write leaves every other address alone. -/
theorem Memory.read_write_of_ne (m : Memory) {a b : Nat} (v : Byte) (h : b ≠ a) :
    (m.write a v).read b = m.read b := by
  induction m with
  | nil =>
    simp only [Memory.write]
    split <;> simp [Memory.read, h.symm]
  | cons e m ih =>
    obtain ⟨k, x⟩ := e
    simp only [Memory.write]
    split
    · simp [Memory.read, ih]
    · split
      · next hk =>
        subst hk
        split <;> simp [Memory.read, h.symm]
      · split <;> simp [Memory.read, h.symm]

/-- In canonical form an address below the first entry reads as unlisted. -/
theorem Memory.read_below (m : Memory) {lo a : Nat} (h : m.wfFrom lo = true) (ha : a < lo) :
    m.read a = Memory.unlisted := by
  induction m generalizing lo with
  | nil => rfl
  | cons e m ih =>
    obtain ⟨k, x⟩ := e
    simp only [Memory.wfFrom, Bool.and_eq_true, decide_eq_true_eq] at h
    simp only [Memory.read]
    rw [if_neg (by omega)]
    exact ih h.2 (by omega)

/-- A byte written reads back, from any canonical form. -/
theorem Memory.read_write_same_from (m : Memory) {lo a : Nat} (v : Byte) (h : m.wfFrom lo = true) :
    (m.write a v).read a = v := by
  induction m generalizing lo with
  | nil =>
    simp only [Memory.write]
    split <;> simp_all [Memory.read]
  | cons e m ih =>
    obtain ⟨k, x⟩ := e
    have h' := h
    simp only [Memory.wfFrom, Bool.and_eq_true, decide_eq_true_eq] at h
    simp only [Memory.write]
    split
    · simp only [Memory.read]
      rw [if_neg (by omega)]
      exact ih h.2
    · split
      · next hk =>
        subst hk
        split
        · next hv => rw [hv]; exact Memory.read_below m h.2 (by omega)
        · simp [Memory.read]
      · split
        · next hk hv =>
          rw [hv]
          have : a < k := by omega
          simp only [Memory.read]
          rw [if_neg (by omega)]
          exact Memory.read_below m h.2 (by omega)
        · simp [Memory.read]

/-- A byte written reads back. -/
theorem Memory.read_write_same (m : Memory) {a : Nat} (v : Byte) (h : m.wf = true) : (m.write a v).read a = v :=
  Memory.read_write_same_from m v h

theorem Memory.wfFrom_mono {m : Memory} {lo hi : Nat} (h : m.wfFrom hi = true) (hl : lo ≤ hi) : m.wfFrom lo = true := by
  cases m with
  | nil => rfl
  | cons e m =>
    obtain ⟨k, x⟩ := e
    simp only [Memory.wfFrom, Bool.and_eq_true, decide_eq_true_eq] at h ⊢
    exact ⟨⟨⟨by omega, h.1.1.2⟩, h.1.2⟩, h.2⟩

theorem Memory.wfFrom_write {m : Memory} {lo a : Nat} (v : Byte) (h : m.wfFrom lo = true) (hl : lo ≤ a)
    (ha : a < 65536) : (m.write a v).wfFrom lo = true := by
  induction m generalizing lo with
  | nil =>
    simp only [Memory.write]
    split <;> simp_all [Memory.wfFrom]
  | cons e m ih =>
    obtain ⟨k, x⟩ := e
    have h' := h
    simp only [Memory.wfFrom, Bool.and_eq_true, decide_eq_true_eq] at h
    simp only [Memory.write]
    split
    · simp only [Memory.wfFrom, Bool.and_eq_true, decide_eq_true_eq]
      exact ⟨h.1, ih h.2 (by omega)⟩
    · split
      · next hk =>
        subst hk
        split
        · exact Memory.wfFrom_mono h.2 (by omega)
        · next hv =>
          simp only [Memory.wfFrom, Bool.and_eq_true, decide_eq_true_eq]
          exact ⟨⟨h.1.1, hv⟩, h.2⟩
      · split
        · exact h'
        · next hk hv =>
          simp only [Memory.wfFrom, Bool.and_eq_true, decide_eq_true_eq]
          exact ⟨⟨⟨hl, ha⟩, hv⟩, ⟨⟨by omega, h.1.1.2⟩, h.1.2⟩, h.2⟩

/-- A write keeps the canonical form. -/
theorem Memory.wf_write {m : Memory} {a : Nat} (v : Byte) (h : m.wf = true) (ha : a < 65536) :
    (m.write a v).wf = true :=
  Memory.wfFrom_write v h (Nat.zero_le a) ha

/-- Two canonical memories that read alike everywhere are equal data. -/
theorem Memory.eq_of_read {m n : Memory} {lo : Nat} (hm : m.wfFrom lo = true) (hn : n.wfFrom lo = true)
    (h : ∀ a, m.read a = n.read a) : m = n := by
  induction m generalizing n lo with
  | nil =>
    cases n with
    | nil => rfl
    | cons e n =>
      obtain ⟨k, x⟩ := e
      simp only [Memory.wfFrom, Bool.and_eq_true, decide_eq_true_eq] at hn
      have := h k
      simp only [Memory.read, if_true] at this
      exact absurd this.symm hn.1.2
  | cons e m ih =>
    obtain ⟨k, x⟩ := e
    have hm' := hm
    simp only [Memory.wfFrom, Bool.and_eq_true, decide_eq_true_eq] at hm
    cases n with
    | nil =>
      have := h k
      simp only [Memory.read, if_true] at this
      exact absurd this hm.1.2
    | cons e' n =>
      obtain ⟨k', x'⟩ := e'
      have hn' := hn
      simp only [Memory.wfFrom, Bool.and_eq_true, decide_eq_true_eq] at hn
      have hkk : k = k' := by
        rcases Nat.lt_trichotomy k k' with hlt | heq | hgt
        · have := h k
          simp only [Memory.read, if_true, if_neg (Nat.ne_of_gt hlt)] at this
          rw [Memory.read_below n hn.2 (by omega)] at this
          exact absurd this hm.1.2
        · exact heq
        · have := h k'
          simp only [Memory.read, if_true, if_neg (Nat.ne_of_gt hgt)] at this
          rw [Memory.read_below m hm.2 (by omega)] at this
          exact absurd this.symm hn.1.2
      subst hkk
      have hx : x = x' := by simpa [Memory.read] using h k
      subst hx
      congr 1
      apply ih hm.2 hn.2
      intro a
      by_cases hka : k = a
      · subst hka
        rw [Memory.read_below m hm.2 (by omega), Memory.read_below n hn.2 (by omega)]
      · simpa [Memory.read, hka] using h a

/-! ### Sets of addresses -/

/-- An inserted address is in the set, and nothing else comes or goes. -/
@[simp] theorem mem_insertAddr {l : List Nat} {a b : Nat} : b ∈ insertAddr l a ↔ b = a ∨ b ∈ l := by
  induction l with
  | nil => simp [insertAddr]
  | cons k l ih =>
    simp only [insertAddr]
    split
    · simp only [List.mem_cons, ih]
      tauto
    · split
      · next hk => subst hk; simp
      · simp

theorem addrsWfFrom_insertAddr {l : List Nat} {lo a : Nat} (h : addrsWfFrom lo l = true) (hl : lo ≤ a)
    (ha : a < 65536) : addrsWfFrom lo (insertAddr l a) = true := by
  induction l generalizing lo with
  | nil => simp [insertAddr, addrsWfFrom, hl, ha]
  | cons k l ih =>
    have h' := h
    simp only [addrsWfFrom, Bool.and_eq_true, decide_eq_true_eq] at h
    simp only [insertAddr]
    split
    · simp only [addrsWfFrom, Bool.and_eq_true, decide_eq_true_eq]
      exact ⟨h.1, ih h.2 (by omega)⟩
    · split
      · exact h'
      · simp only [addrsWfFrom, Bool.and_eq_true, decide_eq_true_eq]
        exact ⟨⟨hl, ha⟩, ⟨by omega, h.1.2⟩, h.2⟩

/-- Inserting an address of the address space keeps the canonical form. -/
theorem addrsWf_insertAddr {l : List Nat} {a : Nat} (h : addrsWf l = true) (ha : a < 65536) :
    addrsWf (insertAddr l a) = true :=
  addrsWfFrom_insertAddr h (Nat.zero_le a) ha

/-! ### The CPU's accesses -/

/-- A stored byte reads back (R42). -/
theorem readByte_storeByte_same {s : State} {a : Word} {v : Byte} (h : s.mem.wf = true) :
    (s.storeByte a v).readByte a = v :=
  Memory.read_write_same s.mem v h

/-- A stored byte leaves every other address alone. -/
theorem readByte_storeByte_of_ne {s : State} {a b : Word} {v : Byte} (h : b ≠ a) :
    (s.storeByte a v).readByte b = s.readByte b :=
  Memory.read_write_of_ne s.mem v (fun e => h (BitVec.eq_of_toNat_eq e))

theorem storeByte_wf {s : State} {a : Word} {v : Byte} (h : s.mem.wf = true) : (s.storeByte a v).mem.wf = true :=
  Memory.wf_write v h a.isLt

theorem storeByte_addrsWf {s : State} {a : Word} {v : Byte} (h : addrsWf s.stored = true) :
    addrsWf (s.storeByte a v).stored = true :=
  addrsWf_insertAddr h a.isLt

/-- Everything a word store can do: it is refused at 0xffff, or it is the two byte stores (R42, R43). -/
theorem storeWord_cases (s : State) (a v : Word) :
    (a = 0xffff ∧ s.storeWord a v = .error .accessWrap) ∨
      (a ≠ 0xffff ∧ s.storeWord a v = .ok ((s.storeByte a (loByte v)).storeByte (a + 1) (hiByte v))) := by
  unfold State.storeWord
  split <;> simp_all

/-- Everything a word read can do (R42, R43). -/
theorem readWord_cases (s : State) (a : Word) :
    (a = 0xffff ∧ s.readWord a = .error .accessWrap) ∨
      (a ≠ 0xffff ∧ s.readWord a = .ok (joinBytes (s.readByte (a + 1)) (s.readByte a))) := by
  unfold State.readWord
  split <;> simp_all [wordOfBytes, Config.byteOrder]

/-- The address after one below 0xffff is the next number. -/
theorem toNat_succ {a : Word} (h : a ≠ 0xffff) : (a + 1).toNat = a.toNat + 1 := by
  have : a.toNat ≠ 65535 := fun e => h (BitVec.eq_of_toNat_eq e)
  have := a.isLt
  rw [BitVec.toNat_add]
  simp
  omega

theorem succ_ne (a : Word) : a + 1 ≠ a := by
  intro h
  have h' := congrArg BitVec.toNat h
  rw [BitVec.toNat_add] at h'
  have := a.isLt
  simp at h'
  omega

end Sys2Proof.Machine
end

