-- ==== Sys2Proof/Laws/Operands.lean ====
section
/-! SUPPORT. What evaluating an operand can do: when it answers, and that it changes only a pointer register, `p`,
or the count of arbitrary values. -/

namespace Sys2Proof.Machine

/-- Evaluating an operand leaves `pc`, the flags and memory as they are. -/
def Quiet (s s1 : State) : Prop :=
  s1.pc = s.pc ∧ s1.flags = s.flags ∧ s1.mem = s.mem ∧ s1.stored = s.stored

theorem Quiet.refl (s : State) : Quiet s s := ⟨rfl, rfl, rfl, rfl⟩

/-! ### The stack -/

theorem pop_cases (s : State) (n : Nat) :
    (256 < s.p.toNat + n ∧ s.pop n = .error .stackWrap) ∨
      (s.p.toNat + n ≤ 256 ∧ s.pop n = .ok (stackAddr s.p, s.setP (s.p + BitVec.ofNat 8 n))) := by
  unfold State.pop
  split
  · next h => exact .inl ⟨h, rfl⟩
  · next h => exact .inr ⟨by omega, rfl⟩

theorem push_cases (s : State) (n : Nat) :
    (s.p.toNat < n ∧ s.push n = .error .stackWrap) ∨
      (n ≤ s.p.toNat ∧ s.push n = .ok (stackAddr (s.p - BitVec.ofNat 8 n), s.setP (s.p - BitVec.ofNat 8 n))) := by
  unfold State.push
  split
  · next h => exact .inl ⟨h, rfl⟩
  · next h => exact .inr ⟨by omega, rfl⟩

theorem top_cases (s : State) (n : Nat) :
    (256 < s.p.toNat + n ∧ s.top n = .error .stackWrap) ∨
      (s.p.toNat + n ≤ 256 ∧ s.top n = .ok (stackAddr s.p, s)) := by
  unfold State.top
  split
  · next h => exact .inl ⟨h, rfl⟩
  · next h => exact .inr ⟨by omega, rfl⟩

theorem stackAddr_ne_top (p : Byte) : stackAddr p ≠ 0xffff := by
  intro h
  have := congrArg hiByte h
  rw [hiByte_stackAddr] at this
  exact absurd this (by decide)

theorem stackAddr_toNat (p : Byte) : (stackAddr p).toNat = 256 + p.toNat := by
  unfold stackAddr joinBytes
  rw [BitVec.toNat_append, Nat.shiftLeft_eq, Nat.mul_comm, ← Nat.two_pow_add_eq_or_of_lt p.isLt]
  rfl

/-- A push of a word answers where there is room for it (R105). -/
theorem pushWord_cases (s : State) (v : Word) :
    (s.p.toNat < 2 ∧ s.pushWord v = .error .stackWrap) ∨
      (2 ≤ s.p.toNat ∧ s.pushWord v = .ok
        (((s.setP (s.p - 2)).storeByte (stackAddr (s.p - 2)) (loByte v)).storeByte (stackAddr (s.p - 2) + 1)
          (hiByte v))) := by
  unfold State.pushWord
  rcases push_cases s 2 with ⟨h, e⟩ | ⟨h, e⟩
  · exact .inl ⟨h, by rw [e]⟩
  · refine .inr ⟨h, ?_⟩
    rw [e]
    rcases storeWord_cases (s.setP (s.p - BitVec.ofNat 8 2)) (stackAddr (s.p - BitVec.ofNat 8 2)) v with ⟨h', _⟩ |
      ⟨_, e'⟩
    · exact absurd h' (stackAddr_ne_top _)
    · exact e'

/-! ### Memory forms -/

@[simp] theorem memTouch_pc (m : MemMode) (n : Nat) (s : State) : (memTouch m n s).pc = s.pc := by cases m <;> simp [memTouch]

@[simp] theorem memTouch_p (m : MemMode) (n : Nat) (s : State) : (memTouch m n s).p = s.p := by cases m <;> simp [memTouch]

@[simp] theorem memTouch_flags (m : MemMode) (n : Nat) (s : State) : (memTouch m n s).flags = s.flags := by
  cases m <;> simp [memTouch]

@[simp] theorem memTouch_mem (m : MemMode) (n : Nat) (s : State) : (memTouch m n s).mem = s.mem := by
  cases m <;> simp [memTouch]

@[simp] theorem memTouch_stored (m : MemMode) (n : Nat) (s : State) : (memTouch m n s).stored = s.stored := by
  cases m <;> simp [memTouch]

@[simp] theorem memTouch_draws (m : MemMode) (n : Nat) (s : State) : (memTouch m n s).draws = s.draws := by
  cases m <;> simp [memTouch]

theorem memTouch_quiet (m : MemMode) (n : Nat) (s : State) : Quiet s (memTouch m n s) := by simp [Quiet]

/-! ### Evaluations change nothing else -/

theorem pop_quiet {s s1 : State} {n : Nat} {a : Word} (h : s.pop n = .ok (a, s1)) : Quiet s s1 := by
  rcases pop_cases s n with ⟨_, e⟩ | ⟨_, e⟩ <;> rw [e] at h
  · cases h
  · cases h; exact Quiet.refl _

theorem push_quiet {s s1 : State} {n : Nat} {a : Word} (h : s.push n = .ok (a, s1)) : Quiet s s1 := by
  rcases push_cases s n with ⟨_, e⟩ | ⟨_, e⟩ <;> rw [e] at h
  · cases h
  · cases h; exact Quiet.refl _

theorem top_quiet {s s1 : State} {n : Nat} {a : Word} (h : s.top n = .ok (a, s1)) : Quiet s s1 := by
  rcases top_cases s n with ⟨_, e⟩ | ⟨_, e⟩ <;> rw [e] at h
  · cases h
  · cases h; exact Quiet.refl _

theorem destStack_quiet {role : DestRole} {s s1 : State} {n : Nat} {a : Word}
    (h : destStack role n s = .ok (a, s1)) : Quiet s s1 := by
  cases role
  · exact push_quiet h
  · exact top_quiet h

theorem evalByteSrc_quiet {src : ByteSrc} {s s1 : State} {v : Byte} (h : evalByteSrc src s = .ok (v, s1)) :
    Quiet s s1 := by
  cases src with
  | pop =>
    simp only [evalByteSrc] at h
    split at h
    · cases h
    · next e => cases h; exact pop_quiet e
  | mem m => simp only [evalByteSrc, Except.ok.injEq, Prod.mk.injEq] at h; rw [← h.2]; exact memTouch_quiet _ _ _
  | reg | flags | sp | imm => cases h; exact Quiet.refl _

theorem evalSrc8_quiet {n : Nat} {src : Src8} {s s1 : State} {v : Byte} (h : evalSrc8 n src s = .ok (v, s1)) :
    Quiet s s1 := by
  cases src with
  | pop =>
    simp only [evalSrc8] at h
    split at h
    · cases h
    · next e => cases h; exact pop_quiet e
  | mem m => simp only [evalSrc8, Except.ok.injEq, Prod.mk.injEq] at h; rw [← h.2]; exact memTouch_quiet _ _ _
  | reg | sp | imm => cases h; exact Quiet.refl _

theorem evalWordSrc_quiet {w : Word} {src : WordSrc} {s s1 : State} {v : Word}
    (h : evalWordSrc w src s = .ok (v, s1)) : Quiet s s1 := by
  cases src with
  | pop =>
    simp only [evalWordSrc] at h
    split at h
    · cases h
    · next e =>
      split at h
      · cases h
      · cases h; exact pop_quiet e
  | mem m =>
    simp only [evalWordSrc] at h
    split at h
    · cases h
    · cases h; exact memTouch_quiet _ _ _
  | reg | ext | sp | imm => cases h; exact Quiet.refl _

theorem evalByteDest_quiet {role : DestRole} {dst : ByteDest} {s s1 : State} {loc : ByteLoc}
    (h : evalByteDest role dst s = .ok (loc, s1)) : Quiet s s1 := by
  cases dst with
  | stack =>
    simp only [evalByteDest] at h
    split at h
    · cases h
    · next e => cases h; exact destStack_quiet e
  | mem m => cases h; exact memTouch_quiet _ _ _
  | reg | flags | sp => cases h; exact Quiet.refl _

theorem evalWordDest_quiet {role : DestRole} {dst : WordDest} {s s1 : State} {loc : WordLoc}
    (h : evalWordDest role dst s = .ok (loc, s1)) : Quiet s s1 := by
  cases dst with
  | stack =>
    simp only [evalWordDest] at h
    split at h
    · cases h
    · next e => cases h; exact destStack_quiet e
  | mem m => cases h; exact memTouch_quiet _ _ _
  | reg | sp => cases h; exact Quiet.refl _

/-! ### Evaluations that read state: what they leave of it for the instruction's own read -/

/-- A destination that is a register, `flags` or `sp` is evaluated without changing the state. -/
theorem evalByteDest_same {role : DestRole} {dst : ByteDest} {s s1 : State} {loc : ByteLoc}
    (h : evalByteDest role dst s = .ok (loc, s1)) (hl : ∀ a, loc ≠ .mem a) : s1 = s := by
  cases dst with
  | stack =>
    simp only [evalByteDest] at h
    split at h
    · cases h
    · cases h; exact absurd rfl (hl _)
  | mem m => cases h; exact absurd rfl (hl _)
  | reg | flags | sp => cases h; rfl

/-- A destination that is a pair or `sp` is evaluated without changing the state. -/
theorem evalWordDest_same {role : DestRole} {dst : WordDest} {s s1 : State} {loc : WordLoc}
    (h : evalWordDest role dst s = .ok (loc, s1)) (hl : ∀ a, loc ≠ .mem a) : s1 = s := by
  cases dst with
  | stack =>
    simp only [evalWordDest] at h
    split at h
    · cases h
    · cases h; exact absurd rfl (hl _)
  | mem m => cases h; exact absurd rfl (hl _)
  | reg | sp => cases h; rfl

/-- No evaluation of a destination consumes an arbitrary value. -/
theorem evalByteDest_draws {role : DestRole} {dst : ByteDest} {s s1 : State} {loc : ByteLoc}
    (h : evalByteDest role dst s = .ok (loc, s1)) : s1.draws = s.draws := by
  cases dst with
  | stack =>
    simp only [evalByteDest] at h
    split at h
    · cases h
    · next e =>
      cases h
      cases role <;> simp only [destStack] at e
      · rcases push_cases s 1 with ⟨_, e'⟩ | ⟨_, e'⟩ <;> rw [e'] at e <;> cases e; rfl
      · rcases top_cases s 1 with ⟨_, e'⟩ | ⟨_, e'⟩ <;> rw [e'] at e <;> cases e; rfl
  | mem m => cases h; simp
  | reg | flags | sp => cases h; rfl

/-- The value read from a destination, from the state before the instruction. -/
theorem readByteLoc_eq {role : DestRole} {dst : ByteDest} {s s1 : State} {loc : ByteLoc}
    (h : evalByteDest role dst s = .ok (loc, s1)) : (readByteLoc loc s1).1 = byteLocValue loc s := by
  cases loc with
  | mem a => simp only [readByteLoc, byteLocValue, State.readByte, (evalByteDest_quiet h).2.2.1]
  | reg | flags | sp => rw [evalByteDest_same h (by intro a; simp)]; rfl

theorem readWordLoc_eq {role : DestRole} {dst : WordDest} {s s1 : State} {loc : WordLoc}
    (h : evalWordDest role dst s = .ok (loc, s1)) (ok : wordLocOk loc) :
    readWordLoc loc s1 = .ok (wordLocValue loc s) := by
  cases loc with
  | mem a =>
    rcases readWord_cases s1 a with ⟨h', _⟩ | ⟨_, e⟩
    · exact absurd h' ok
    · simp only [readWordLoc, e, wordLocValue, State.readByte, (evalWordDest_quiet h).2.2.1]
  | reg | sp => rw [evalWordDest_same h (by intro a; simp)]; rfl

theorem readWordLoc_error {s : State} {loc : WordLoc} (h : ¬ wordLocOk loc) :
    readWordLoc loc s = .error .accessWrap := by
  cases loc with
  | mem a =>
    rcases readWord_cases s a with ⟨_, e⟩ | ⟨h', _⟩
    · exact e
    · exact absurd h' h
  | reg | sp => exact absurd trivial h

theorem writeWordLoc_error {s : State} {loc : WordLoc} {v : Word} (h : ¬ wordLocOk loc) :
    writeWordLoc loc v s = .error .accessWrap := by
  cases loc with
  | mem a =>
    rcases storeWord_cases s a v with ⟨_, e⟩ | ⟨h', _⟩
    · exact e
    · exact absurd h' h
  | reg | sp => exact absurd trivial h

/-! ### Stores, in the terms of the claims -/

/-- A store of a byte, whatever else is updated that is neither memory nor the set of stored addresses. -/
theorem storesByte_of {s s1 t : State} {a : Word} {v : Byte} (hm : s1.mem = s.mem) (hst : s1.stored = s.stored)
    (hw : s.mem.wf = true) (tm : t.mem = (s1.storeByte a v).mem) (ts : t.stored = (s1.storeByte a v).stored) :
    StoresByte s t a v := by
  refine ⟨?_, fun b hb => ?_, fun b => ?_⟩
  · rw [State.readByte, tm, storeByte_mem, hm]; exact Memory.read_write_same _ _ hw
  · rw [tm, storeByte_mem, hm]; exact Memory.read_write_of_ne _ _ hb
  · rw [ts, storeByte_stored, hst, mem_insertAddr]

/-- As `storesByte_of`, for a word. -/
theorem storesWord_of {s s1 t : State} {a v : Word} (ha : a ≠ 0xffff) (hm : s1.mem = s.mem)
    (hst : s1.stored = s.stored) (hw : s.mem.wf = true)
    (tm : t.mem = ((s1.storeByte a (loByte v)).storeByte (a + 1) (hiByte v)).mem)
    (ts : t.stored = ((s1.storeByte a (loByte v)).storeByte (a + 1) (hiByte v)).stored) : StoresWord s t a v := by
  have h1 : (s1.storeByte a (loByte v)).mem.wf = true := storeByte_wf (by rw [hm]; exact hw)
  refine ⟨?_, ?_, fun b hb hb' => ?_, fun b => ?_⟩
  · rw [State.readByte, tm]
    rw [show ((s1.storeByte a (loByte v)).storeByte (a + 1) (hiByte v)).mem.read a.toNat
      = ((s1.storeByte a (loByte v)).storeByte (a + 1) (hiByte v)).readByte a from rfl]
    rw [readByte_storeByte_of_ne (succ_ne a).symm, readByte_storeByte_same (by rw [hm]; exact hw)]
  · rw [State.readByte, tm]
    exact readByte_storeByte_same h1
  · rw [tm, storeByte_mem, storeByte_mem, Memory.read_write_of_ne _ _ (by rw [toNat_succ ha]; exact hb'),
      Memory.read_write_of_ne _ _ hb, hm]
  · rw [ts, storeByte_stored, storeByte_stored, mem_insertAddr, mem_insertAddr, hst, toNat_succ ha]
    tauto

end Sys2Proof.Machine
end

