-- ==== Sys2Proof/Laws/Outcomes.lean ====
section
/-! SUPPORT. The updates that the instruction forms end with, in the terms of the claims: each says what the updated state
holds and what it keeps. -/

namespace Sys2Proof.Machine

/-! ### One register, one pair -/

theorem setsReg8_setReg8 (s : State) (r : Reg8) (v : Byte) : SetsReg8 s (s.setReg8 r v) r v := by
  refine ⟨by simp, fun q hq => by simp [hq]⟩

theorem setsReg16_setReg16 (s : State) (k : Reg16) (v : Word) : SetsReg16 s (s.setReg16 k v) k v := by
  refine ⟨by simp, fun q hq => ?_⟩
  have h1 : q ≠ upperHalf k := fun e => hq (by rw [e, upperHalf_pair])
  have h2 : q ≠ lowerHalf k := fun e => hq (by rw [e, lowerHalf_pair])
  simp [State.setReg16, h1, h2]

/-- Registers decide the two views alike. -/
theorem SetsReg8.congr {s t u : State} {r : Reg8} {v : Byte} (h : SetsReg8 s t r v) (e : u.regs = t.regs) :
    SetsReg8 s u r v := by
  have he : ∀ q, u.reg8 q = t.reg8 q := fun q => by cases q <;> simp [State.reg8, e]
  exact ⟨(he r).trans h.1, fun q hq => (he q).trans (h.2 q hq)⟩

theorem SetsReg16.congr {s t u : State} {k : Reg16} {v : Word} (h : SetsReg16 s t k v) (e : u.regs = t.regs) :
    SetsReg16 s u k v := by
  have he : ∀ q, u.reg8 q = t.reg8 q := fun q => by cases q <;> simp [State.reg8, e]
  refine ⟨?_, fun q hq => (he q).trans (h.2 q hq)⟩
  rw [← h.1, State.reg16, State.reg16, he, he]

theorem advances_advance {s s1 : State} (h : s1.pc = s.pc) (words : Nat) : Advances s (s1.advance words) words := by
  simp [Advances, State.advance, State.npc, h]

/-! ### Instruction forms -/

theorem byteReg_outcome {s s1 : State} (q : Quiet s s1) (r : Reg8) (v : Byte) (f : Flags) (words : Nat) :
    ByteRegOutcome s s1 r v f words (((s1.setReg8 r v).setFlags f).advance words) := by
  obtain ⟨hpc, _, hm, hs⟩ := q
  refine ⟨(setsReg8_setReg8 s1 r v).congr rfl, rfl, advances_advance (by simpa using hpc) _, by simp, by simp, ?_, ?_⟩
  · simpa using hm
  · simpa using hs

theorem wordReg_outcome {s s1 : State} (q : Quiet s s1) (r : Reg16) (v : Word) (f : Flags) (words : Nat) :
    WordRegOutcome s s1 r v f words (((s1.setReg16 r v).setFlags f).advance words) := by
  obtain ⟨hpc, _, hm, hs⟩ := q
  refine ⟨(setsReg16_setReg16 s1 r v).congr rfl, rfl, advances_advance (by simpa using hpc) _, by simp, by simp, ?_, ?_⟩
  · simpa using hm
  · simpa using hs

theorem flags_outcome {s s1 : State} (q : Quiet s s1) (f : Flags) (words : Nat) :
    FlagsOutcome s s1 f words ((s1.setFlags f).advance words) := by
  obtain ⟨hpc, _, hm, hs⟩ := q
  refine ⟨fun _ => by simp, rfl, advances_advance (by simpa using hpc) _, by simp, by simp, ?_, ?_⟩
  · simpa using hm
  · simpa using hs

/-- A move: the flags are the ones before. -/
theorem byteMov_outcome {s s1 : State} (q : Quiet s s1) (r : Reg8) (v : Byte) (words : Nat) :
    ByteRegOutcome s s1 r v s.flags words ((s1.setReg8 r v).advance words) := by
  have h := byteReg_outcome q r v s.flags words
  rwa [show (s1.setReg8 r v).setFlags s.flags = s1.setReg8 r v by rw [← q.2.1, ← setReg8_flags]; rfl] at h

theorem wordMov_outcome {s s1 : State} (q : Quiet s s1) (r : Reg16) (v : Word) (words : Nat) :
    WordRegOutcome s s1 r v s.flags words ((s1.setReg16 r v).advance words) := by
  have h := wordReg_outcome q r v s.flags words
  rwa [show (s1.setReg16 r v).setFlags s.flags = s1.setReg16 r v by rw [← q.2.1, ← setReg16_flags]; rfl] at h

theorem byteShift_outcome {s s1 : State} (q : Quiet s s1) (op : ShiftOp) (r : Reg8) (c : Byte) (words : Nat) :
    ByteShiftOutcome s s1 r (specShift op (s.reg8 r) (specCount8 op c)) words (byteShift op r c s s1 words) := by
  obtain ⟨hpc, _, hm, hs⟩ := q
  refine ⟨?_, ⟨by simp [byteShift, State.draw], by simp [byteShift]⟩, advances_advance (by simpa using hpc) _, by simp [byteShift], ?_, ?_⟩
  · rw [byteShift, shift8_eq]; exact (setsReg8_setReg8 s1 r _).congr rfl
  · simpa [byteShift] using hm
  · simpa [byteShift] using hs

theorem wordShift_outcome {s s1 : State} (q : Quiet s s1) (op : ShiftOp) (r : Reg16) (c : Byte) (words : Nat) :
    WordShiftOutcome s s1 r (specShift op (s.reg16 r) (c.toNat % 16)) words (wordShift op r c s s1 words) := by
  obtain ⟨hpc, _, hm, hs⟩ := q
  refine ⟨?_, ⟨by simp [wordShift, State.draw], by simp [wordShift]⟩, advances_advance (by simpa using hpc) _, by simp [wordShift], ?_, ?_⟩
  · rw [wordShift, shift16_eq]; exact (setsReg16_setReg16 s1 r _).congr rfl
  · simpa [wordShift] using hm
  · simpa [wordShift] using hs

theorem byteMul_outcome {s s1 : State} (q : Quiet s s1) (r : Reg8) (v : Byte) (words : Nat) :
    ByteMulOutcome s s1 r ((s.reg8 r).toNat * v.toNat) words (byteMul r v s s1 words) := by
  obtain ⟨hpc, _, hm, hs⟩ := q
  have hp := product8_toNat (s.reg8 r) v
  have hlt := (product8 (s.reg8 r) v).isLt
  unfold byteMul ByteMulOutcome
  split
  · next h =>
    subst h
    refine ⟨?_, fun hne => absurd rfl hne, fun q hq hq' => by simp [hq], ⟨by simp [State.draw], by simp⟩,
      advances_advance (by simpa using hpc) _, by simp, by simpa using hm, by simpa using hs⟩
    simp [BitVec.extractLsb'_toNat, hp]
  · next h =>
    refine ⟨?_, fun _ => ?_, fun q hq hq' => by simp [hq, hq'], ⟨by simp [State.draw], by simp⟩,
      advances_advance (by simpa using hpc) _, by simp, by simpa using hm, by simpa using hs⟩
    · simp [BitVec.extractLsb'_toNat, hp, h]
    · simp [BitVec.extractLsb'_toNat, hp, Nat.shiftRight_eq_div_pow]
      omega

theorem wordMul_outcome {s s1 : State} (q : Quiet s s1) (r : Reg16) (v : Byte) (words : Nat) :
    WordMulOutcome s s1 r ((s.reg16 r).toNat * v.toNat) words (wordMul r v s s1 words) := by
  obtain ⟨hpc, _, hm, hs⟩ := q
  have hp := product16_toNat (s.reg16 r) v
  have hlt := (product16 (s.reg16 r) v).isLt
  unfold wordMul WordMulOutcome
  split
  · next h =>
    subst h
    refine ⟨?_, fun hne => absurd rfl hne, fun q hq hq' => ?_, ⟨by simp [State.draw], by simp⟩,
      advances_advance (by simpa using hpc) _, by simp, by simpa using hm, by simpa using hs⟩
    · simp [BitVec.extractLsb'_toNat, hp]
    · exact ((setsReg16_setReg16 s1 .hg _).congr (u := ((s1.setReg16 .hg _).leaveFlags .mul).advance words) rfl).2 q hq
  · next h =>
    have h1 : upperHalf r ≠ .h := by cases r <;> first | decide | exact absurd rfl h
    have h2 : lowerHalf r ≠ .h := by cases r <;> decide
    refine ⟨?_, fun _ => ?_, fun q hq hq' => ?_, ⟨by simp [State.draw], by simp⟩,
      advances_advance (by simpa using hpc) _, by simp, by simpa using hm, by simpa using hs⟩
    · have hp' := hp
      simp only [State.reg16] at hp'
      simp [State.reg16, State.setReg16, h1, h2, upperHalf_ne_lowerHalf, BitVec.extractLsb'_toNat, hp']
    · simp [BitVec.extractLsb'_toNat, hp, Nat.shiftRight_eq_div_pow]
      omega
    · have h3 : q ≠ upperHalf r := fun e => hq (by rw [e, upperHalf_pair])
      have h4 : q ≠ lowerHalf r := fun e => hq (by rw [e, lowerHalf_pair])
      simp [State.setReg16, hq', h3, h4]

/-! ### Destinations -/

theorem byteDest_outcome {role : DestRole} {dst : ByteDest} {s s1 : State} {loc : ByteLoc} (hw : s.mem.wf = true)
    (h : evalByteDest role dst s = .ok (loc, s1)) (v : Byte) (words : Nat) :
    ByteDestOutcome s s1 loc v s.flags words ((writeByteLoc loc v s1).advance words) := by
  obtain ⟨hpc, hf, hm, hs⟩ := evalByteDest_quiet h
  cases loc with
  | reg r =>
    exact ⟨advances_advance (by simpa [writeByteLoc] using hpc) _, by simp [writeByteLoc],
      (setsReg8_setReg8 s1 r v).congr rfl, by simp [writeByteLoc], by simpa [writeByteLoc] using hf,
      by simpa [writeByteLoc] using hm, by simpa [writeByteLoc] using hs⟩
  | flags =>
    exact ⟨advances_advance hpc _, rfl, rfl, fun q => rfl, rfl, hm, hs⟩
  | sp =>
    exact ⟨advances_advance hpc _, rfl, rfl, fun q => rfl, hf, hm, hs⟩
  | mem a =>
    exact ⟨advances_advance hpc _, rfl, storesByte_of hm hs hw rfl rfl, fun q => rfl, rfl, hf⟩

theorem wordDest_outcome {role : DestRole} {dst : WordDest} {s s1 : State} {loc : WordLoc} (hw : s.mem.wf = true)
    (h : evalWordDest role dst s = .ok (loc, s1)) (ok : wordLocOk loc) (v : Word) :
    ∃ s2, writeWordLoc loc v s1 = .ok s2 ∧ ∀ words, WordDestOutcome s s1 loc v s.flags words (s2.advance words) := by
  obtain ⟨hpc, hf, hm, hs⟩ := evalWordDest_quiet h
  cases loc with
  | reg r =>
    exact ⟨_, rfl, fun words => ⟨advances_advance (by simpa using hpc) _, by simp,
      (setsReg16_setReg16 s1 r v).congr rfl, by simp, by simpa using hf, by simpa using hm, by simpa using hs⟩⟩
  | sp =>
    exact ⟨_, rfl, fun words => ⟨advances_advance hpc _, rfl, rfl, fun q => rfl, hf, hm, hs⟩⟩
  | mem a =>
    rcases storeWord_cases s1 a v with ⟨h', _⟩ | ⟨ha, e⟩
    · exact absurd h' ok
    · exact ⟨_, e, fun words => ⟨advances_advance hpc _, rfl, storesWord_of ha hm hs hw rfl rfl, fun q => rfl, rfl, hf⟩⟩

/-- Setting the flags last changes nothing else that a byte destination's outcome speaks of. -/
theorem ByteDestOutcome.withFlags {s s1 u : State} {loc : ByteLoc} {v : Byte} {f g : Flags} {words : Nat}
    (h : ByteDestOutcome s s1 loc v f words (u.advance words)) (hl : loc ≠ .flags) :
    ByteDestOutcome s s1 loc v g words ((u.setFlags g).advance words) := by
  obtain ⟨ha, hd, h⟩ := h
  cases loc with
  | reg r => exact ⟨ha, hd, h.1, h.2.1, rfl, h.2.2.2⟩
  | flags => exact absurd rfl hl
  | sp => exact ⟨ha, hd, h.1, h.2.1, rfl, h.2.2.2⟩
  | mem a => exact ⟨ha, hd, h.1, h.2.1, h.2.2.1, rfl⟩

theorem WordDestOutcome.withFlags {s s1 u : State} {loc : WordLoc} {v : Word} {f g : Flags} {words : Nat}
    (h : WordDestOutcome s s1 loc v f words (u.advance words)) :
    WordDestOutcome s s1 loc v g words ((u.setFlags g).advance words) := by
  obtain ⟨ha, hd, h⟩ := h
  cases loc with
  | reg r => exact ⟨ha, hd, h.1, h.2.1, rfl, h.2.2.2⟩
  | sp => exact ⟨ha, hd, h.1, h.2.1, rfl, h.2.2.2⟩
  | mem a => exact ⟨ha, hd, h.1, h.2.1, h.2.2.1, rfl⟩

end Sys2Proof.Machine
end

