-- ==== Sys2Proof/Laws/Forms.lean ====
section
/-! SUPPORT. What every instruction form can do, once for all its instructions: where it answers a next state, memory
has changed only at addresses noted as stored to, the canonical forms are kept, and an even `pc` stays even. -/

namespace Sys2Proof.Machine

/-- Memory and the stored addresses keep their canonical form, no note is taken away, and memory differs only at
noted addresses. -/
structure Grows (s t : State) : Prop where
  memWf : s.mem.wf = true → t.mem.wf = true
  addrsWf : addrsWf s.stored = true → addrsWf t.stored = true
  stored : ∀ a, a ∈ s.stored → a ∈ t.stored
  mem : ∀ a, a ∉ t.stored → t.mem.read a = s.mem.read a

/-- The state grows, and an even `pc` stays even. -/
def Lawful (s t : State) : Prop := Grows s t ∧ (s.pc.getLsbD 0 = false → t.pc.getLsbD 0 = false)

theorem Grows.of_eq {s t : State} (hm : t.mem = s.mem) (hs : t.stored = s.stored) : Grows s t := by
  refine ⟨?_, ?_, ?_, ?_⟩ <;> simp [hm, hs]

theorem Grows.trans {s t u : State} (h : Grows s t) (k : Grows t u) : Grows s u :=
  ⟨fun w => k.memWf (h.memWf w), fun w => k.addrsWf (h.addrsWf w), fun a m => k.stored a (h.stored a m),
    fun a m => (k.mem a m).trans (h.mem a fun n => m (k.stored a n))⟩

theorem Quiet.grows {s s1 : State} (q : Quiet s s1) : Grows s s1 := .of_eq q.2.2.1 q.2.2.2

theorem grows_storeByte (s : State) (a : Word) (v : Byte) : Grows s (s.storeByte a v) := by
  refine ⟨storeByte_wf, storeByte_addrsWf, fun b hb => ?_, fun b hb => ?_⟩
  · rw [storeByte_stored, mem_insertAddr]; exact .inr hb
  · rw [storeByte_stored, mem_insertAddr] at hb
    exact Memory.read_write_of_ne _ _ fun e => hb (.inl e)

theorem grows_storeWord {s t : State} {a v : Word} (h : s.storeWord a v = .ok t) : Grows s t := by
  rcases storeWord_cases s a v with ⟨_, e⟩ | ⟨_, e⟩ <;> rw [e] at h <;> cases h
  exact (grows_storeByte _ _ _).trans (grows_storeByte _ _ _)

theorem grows_writeByteLoc (loc : ByteLoc) (v : Byte) (s : State) : Grows s (writeByteLoc loc v s) := by
  cases loc with
  | mem a => exact grows_storeByte _ _ _
  | reg r => exact .of_eq (by simp [writeByteLoc]) (by simp [writeByteLoc])
  | flags | sp => exact .of_eq rfl rfl

theorem grows_writeWordLoc {loc : WordLoc} {v : Word} {s t : State} (h : writeWordLoc loc v s = .ok t) : Grows s t := by
  cases loc with
  | mem a => exact grows_storeWord h
  | reg k => cases h; exact .of_eq (by simp) (by simp)
  | sp => cases h; exact .of_eq rfl rfl

theorem storeWord_pc {s t : State} {a v : Word} (h : s.storeWord a v = .ok t) : t.pc = s.pc := by
  rcases storeWord_cases s a v with ⟨_, e⟩ | ⟨_, e⟩ <;> rw [e] at h <;> cases h
  rfl

theorem writeByteLoc_pc (loc : ByteLoc) (v : Byte) (s : State) : (writeByteLoc loc v s).pc = s.pc := by
  cases loc <;> first | rfl | simp [writeByteLoc]

theorem writeWordLoc_pc {loc : WordLoc} {v : Word} {s t : State} (h : writeWordLoc loc v s = .ok t) : t.pc = s.pc := by
  cases loc with
  | mem a => exact storeWord_pc h
  | reg k => cases h; simp
  | sp => cases h; rfl

/-! ### The program counter -/

theorem even_add_two_mul {a b : Word} (h : a.getLsbD 0 = false) : (a + 2 * b).getLsbD 0 = false := by
  rw [← BitVec.testBit_toNat] at *
  have h2 : (2 : Word).toNat = 2 := rfl
  simp only [BitVec.toNat_add, BitVec.toNat_mul, h2, Nat.testBit_zero, decide_eq_false_iff_not] at *
  omega

theorem even_npc {s : State} (h : s.pc.getLsbD 0 = false) (words : Nat) : (s.npc words).getLsbD 0 = false := by
  have : BitVec.ofNat 16 (2 * words) = 2 * BitVec.ofNat 16 words := by rw [BitVec.ofNat_mul]; rfl
  rw [State.npc, this]
  exact even_add_two_mul h

theorem even_branchTarget {s : State} (h : s.pc.getLsbD 0 = false) (imm : BitVec 8) :
    (s.branchTarget imm).getLsbD 0 = false := even_add_two_mul h

/-- The end of every instruction that is not a transfer of control. -/
theorem lawful_advance {s u : State} (g : Grows s u) (hpc : u.pc = s.pc) (words : Nat) : Lawful s (u.advance
    words) := by
  refine ⟨g.trans (.of_eq rfl rfl), fun h => ?_⟩
  show (u.npc words).getLsbD 0 = false
  exact even_npc (by rw [hpc]; exact h) words

theorem lawful_setFlags_advance {s u : State} (g : Grows s u) (hpc : u.pc = s.pc) (f : Flags) (words : Nat) :
    Lawful s ((u.setFlags f).advance words) :=
  lawful_advance (u := u.setFlags f) (g.trans (.of_eq rfl rfl)) hpc words

theorem lawful_setReg8 {s u : State} (g : Grows s u) (hpc : u.pc = s.pc) (r : Reg8) (v : Byte) :
    Grows s (u.setReg8 r v) ∧ (u.setReg8 r v).pc = s.pc :=
  ⟨g.trans (.of_eq (by simp) (by simp)), by simp [hpc]⟩

theorem lawful_setReg16 {s u : State} (g : Grows s u) (hpc : u.pc = s.pc) (k : Reg16) (v : Word) :
    Grows s (u.setReg16 k v) ∧ (u.setReg16 k v).pc = s.pc :=
  ⟨g.trans (.of_eq (by simp) (by simp)), by simp [hpc]⟩

theorem lawful_jumpTo {s u t : State} {v : Word} (g : Grows s u) (h : u.jumpTo v = .next t) : Lawful s t := by
  unfold State.jumpTo at h
  split at h
  · cases h
  · next e => cases h; exact ⟨g.trans (.of_eq rfl rfl), fun _ => by simpa using e⟩

/-! ### 8-bit forms -/

theorem byteRegSrc_lawful {op : BinOp} {r : Reg8} {src : ByteSrc} {s t : State} (h : byteRegSrc op r src s = .next t) :
    Lawful s t := by
  simp only [byteRegSrc] at h
  split at h
  · cases h
  · split at h
    · cases h
    · next q =>
      cases h
      have q := evalByteSrc_quiet q
      obtain ⟨g, e⟩ := lawful_setReg8 q.grows q.1 r (binop op (s.reg8 r) _ s.flags).1
      exact lawful_setFlags_advance g e _ _

theorem byteCompareSrc_lawful {op : BinOp} {r : Reg8} {src : ByteSrc} {s t : State}
    (h : byteCompareSrc op r src s = .next t) : Lawful s t := by
  simp only [byteCompareSrc] at h
  split at h
  · cases h
  · split at h
    · cases h
    · next q =>
      cases h
      have q := evalByteSrc_quiet q
      exact lawful_setFlags_advance q.grows q.1 _ _

theorem byteRegValue_lawful {op : BinOp} {r : Reg8} {v : Byte} {s t : State} (h : byteRegValue op r v s = .next t) :
    Lawful s t := by
  cases h
  obtain ⟨g, e⟩ := lawful_setReg8 (Quiet.refl s).grows rfl r (binop op (s.reg8 r) v s.flags).1
  exact lawful_setFlags_advance g e _ _

theorem byteCompareValue_lawful {op : BinOp} {r : Reg8} {v : Byte} {s t : State}
    (h : byteCompareValue op r v s = .next t) : Lawful s t := by
  cases h
  exact lawful_setFlags_advance (Quiet.refl s).grows rfl _ _

theorem byteZpReg_lawful {op : BinOp} {zp : BitVec 7} {r : Reg8} {s t : State} (h : byteZpReg op zp r s = .next t) :
    Lawful s t := by
  cases h
  exact lawful_setFlags_advance (grows_storeByte s _ _) rfl _ _

theorem byteDestReg_lawful {op : BinOp} {dst : ByteDest} {r : Reg8} {s t : State}
    (h : byteDestReg op dst r s = .next t) : Lawful s t := by
  simp only [byteDestReg] at h
  split at h
  · cases h
  · split at h
    · cases h
    · split at h
      · cases h
      · next q =>
        cases h
        have q := evalByteDest_quiet q
        exact lawful_setFlags_advance (q.grows.trans (grows_writeByteLoc _ _ _)) ((writeByteLoc_pc _ _ _).trans q.1) _ _

theorem byteMovRegSrc_lawful {r : Reg8} {src : ByteSrc} {s t : State} (h : byteMovRegSrc r src s = .next t) :
    Lawful s t := by
  simp only [byteMovRegSrc] at h
  split at h
  · cases h
  · split at h
    · cases h
    · next v _ q =>
      cases h
      have q := evalByteSrc_quiet q
      obtain ⟨g, e⟩ := lawful_setReg8 q.grows q.1 r v
      exact lawful_advance g e _

theorem byteMovDestReg_lawful {dst : ByteDest} {r : Reg8} {s t : State} (h : byteMovDestReg dst r s = .next t) :
    Lawful s t := by
  simp only [byteMovDestReg] at h
  split at h
  · cases h
  · split at h
    · cases h
    · next q =>
      cases h
      have q := evalByteDest_quiet q
      exact lawful_advance (q.grows.trans (grows_writeByteLoc _ _ _)) ((writeByteLoc_pc _ _ _).trans q.1) _

theorem readByteLoc_quiet (loc : ByteLoc) (s : State) : Quiet s (readByteLoc loc s).2 := by
  cases loc <;> exact ⟨rfl, rfl, rfl, rfl⟩

theorem byteSwapDestReg_lawful {dst : ByteDest} {r : Reg8} {s t : State} (h : byteSwapDestReg dst r s = .next t) :
    Lawful s t := by
  simp only [byteSwapDestReg] at h
  split at h
  · cases h
  · split at h
    · cases h
    · next loc s1 q =>
      cases h
      have q := evalByteDest_quiet q
      have q' := readByteLoc_quiet loc s1
      obtain ⟨g, e⟩ := lawful_setReg8 ((q.grows.trans q'.grows).trans (grows_writeByteLoc loc (s.reg8 r) _))
        ((writeByteLoc_pc _ _ _).trans (q'.1.trans q.1)) r (readByteLoc loc s1).1
      exact lawful_advance g e _

/-! ### 16-bit forms -/

theorem wordRegSrc_lawful {op : BinOp} {w : Word} {r : Reg16} {src : WordSrc} {s t : State}
    (h : wordRegSrc op w r src s = .next t) : Lawful s t := by
  simp only [wordRegSrc] at h
  split at h
  · cases h
  · split at h
    · cases h
    · next q =>
      cases h
      have q := evalWordSrc_quiet q
      obtain ⟨g, e⟩ := lawful_setReg16 q.grows q.1 r (binop op (s.reg16 r) _ s.flags).1
      exact lawful_setFlags_advance g e _ _

theorem wordCompareSrc_lawful {op : BinOp} {w : Word} {r : Reg16} {src : WordSrc} {s t : State}
    (h : wordCompareSrc op w r src s = .next t) : Lawful s t := by
  simp only [wordCompareSrc] at h
  split at h
  · cases h
  · split at h
    · cases h
    · split at h
      · cases h
      · next q =>
        cases h
        have q := evalWordSrc_quiet q
        exact lawful_setFlags_advance q.grows q.1 _ _

theorem wordRegValue_lawful {op : BinOp} {r : Reg16} {v : Word} {s t : State} (h : wordRegValue op r v s = .next t) :
    Lawful s t := by
  cases h
  obtain ⟨g, e⟩ := lawful_setReg16 (Quiet.refl s).grows rfl r (binop op (s.reg16 r) v s.flags).1
  exact lawful_setFlags_advance g e _ _

theorem wordCompareValue_lawful {op : BinOp} {r : Reg16} {v : Word} {s t : State}
    (h : wordCompareValue op r v s = .next t) : Lawful s t := by
  cases h
  exact lawful_setFlags_advance (Quiet.refl s).grows rfl _ _

theorem wordRegZp_lawful {op : BinOp} {r : Reg16} {zp : BitVec 7} {s t : State} (h : wordRegZp op r zp s = .next t) :
    Lawful s t := by
  simp only [wordRegZp] at h
  split at h
  · cases h
  · exact wordRegValue_lawful h

theorem wordCompareZp_lawful {op : BinOp} {r : Reg16} {zp : BitVec 7} {s t : State}
    (h : wordCompareZp op r zp s = .next t) : Lawful s t := by
  simp only [wordCompareZp] at h
  split at h
  · cases h
  · exact wordCompareValue_lawful h

theorem wordZpReg_lawful {op : BinOp} {zp : BitVec 7} {r : Reg16} {s t : State} (h : wordZpReg op zp r s = .next t) :
    Lawful s t := by
  simp only [wordZpReg] at h
  split at h
  · cases h
  · split at h
    · cases h
    · next e =>
      cases h
      exact lawful_setFlags_advance (grows_storeWord e) (storeWord_pc e) _ _

theorem wordDestReg_lawful {op : BinOp} {dst : WordDest} {r : Reg16} {s t : State}
    (h : wordDestReg op dst r s = .next t) : Lawful s t := by
  simp only [wordDestReg] at h
  split at h
  · cases h
  · split at h
    · cases h
    · next q =>
      split at h
      · cases h
      · split at h
        · cases h
        · next e =>
          cases h
          have q := evalWordDest_quiet q
          exact lawful_setFlags_advance (q.grows.trans (grows_writeWordLoc e)) ((writeWordLoc_pc e).trans q.1) _ _

theorem wordMovRegSrc_lawful {w : Word} {r : Reg16} {src : WordSrc} {s t : State}
    (h : wordMovRegSrc w r src s = .next t) : Lawful s t := by
  simp only [wordMovRegSrc] at h
  split at h
  · cases h
  · split at h
    · cases h
    · next v _ q =>
      cases h
      have q := evalWordSrc_quiet q
      obtain ⟨g, e⟩ := lawful_setReg16 q.grows q.1 r v
      exact lawful_advance g e _

theorem wordMovDestReg_lawful {dst : WordDest} {r : Reg16} {s t : State} (h : wordMovDestReg dst r s = .next t) :
    Lawful s t := by
  simp only [wordMovDestReg] at h
  split at h
  · cases h
  · split at h
    · cases h
    · next q =>
      split at h
      · cases h
      · next e =>
        cases h
        have q := evalWordDest_quiet q
        exact lawful_advance (q.grows.trans (grows_writeWordLoc e)) ((writeWordLoc_pc e).trans q.1) _

theorem wordSwapDestReg_lawful {dst : WordDest} {r : Reg16} {s t : State} (h : wordSwapDestReg dst r s = .next t) :
    Lawful s t := by
  simp only [wordSwapDestReg] at h
  split at h
  · cases h
  · split at h
    · cases h
    · next q =>
      split at h
      · cases h
      · next v _ =>
        split at h
        · cases h
        · next e =>
          cases h
          have q := evalWordDest_quiet q
          obtain ⟨g, e⟩ := lawful_setReg16 (q.grows.trans (grows_writeWordLoc e)) ((writeWordLoc_pc e).trans q.1) r v
          exact lawful_advance g e _

/-! ### Shifts and multiply -/

theorem byteShift_lawful {s s1 : State} (q : Quiet s s1) (op : ShiftOp) (r : Reg8) (c : Byte) (words : Nat) :
    Lawful s (byteShift op r c s s1 words) :=
  lawful_advance (q.grows.trans (.of_eq (by simp) (by simp))) (by simpa using q.1) _

theorem wordShift_lawful {s s1 : State} (q : Quiet s s1) (op : ShiftOp) (r : Reg16) (c : Byte) (words : Nat) :
    Lawful s (wordShift op r c s s1 words) :=
  lawful_advance (q.grows.trans (.of_eq (by simp) (by simp))) (by simpa using q.1) _

theorem byteMul_lawful {s s1 : State} (q : Quiet s s1) (r : Reg8) (v : Byte) (words : Nat) :
    Lawful s (byteMul r v s s1 words) := by
  unfold byteMul
  split <;> exact lawful_advance (q.grows.trans (.of_eq (by simp) (by simp))) (by simpa using q.1) _

theorem wordMul_lawful {s s1 : State} (q : Quiet s s1) (r : Reg16) (v : Byte) (words : Nat) :
    Lawful s (wordMul r v s s1 words) := by
  unfold wordMul
  split <;> exact lawful_advance (q.grows.trans (.of_eq (by simp) (by simp))) (by simpa using q.1) _

theorem byteShiftSrc8_lawful {op : ShiftOp} {r : Reg8} {src : Src8} {s t : State}
    (h : byteShiftSrc8 op r src s = .next t) : Lawful s t := by
  simp only [byteShiftSrc8] at h
  split at h
  · cases h
  · split at h
    · cases h
    · next q => cases h; exact byteShift_lawful (evalSrc8_quiet q) _ _ _ _

theorem wordShiftSrc8_lawful {op : ShiftOp} {r : Reg16} {src : Src8} {s t : State}
    (h : wordShiftSrc8 op r src s = .next t) : Lawful s t := by
  simp only [wordShiftSrc8] at h
  split at h
  · cases h
  · split at h
    · cases h
    · next q => cases h; exact wordShift_lawful (evalSrc8_quiet q) _ _ _ _

theorem byteMulSrc8_lawful {r : Reg8} {src : Src8} {s t : State} (h : byteMulSrc8 r src s = .next t) : Lawful s t := by
  simp only [byteMulSrc8] at h
  split at h
  · cases h
  · split at h
    · cases h
    · next q => cases h; exact byteMul_lawful (evalSrc8_quiet q) _ _ _

theorem wordMulSrc8_lawful {r : Reg16} {src : Src8} {s t : State} (h : wordMulSrc8 r src s = .next t) : Lawful s t := by
  simp only [wordMulSrc8] at h
  split at h
  · cases h
  · split at h
    · cases h
    · next q => cases h; exact wordMul_lawful (evalSrc8_quiet q) _ _ _

/-! ### Control transfer -/

theorem branchIf_lawful {cc : Cond} {imm : BitVec 8} {s t : State} (h : branchIf cc imm s = .next t) : Lawful s t := by
  cases h
  split
  · exact ⟨.of_eq rfl rfl, fun e => even_branchTarget e imm⟩
  · exact lawful_advance (Quiet.refl s).grows rfl 1

theorem jumpWordSrc_lawful {w : Word} {src : WordSrc} {s t : State} (h : jumpWordSrc w src s = .next t) : Lawful s
    t := by
  simp only [jumpWordSrc] at h
  split at h
  · cases h
  · next q => exact lawful_jumpTo (evalWordSrc_quiet q).grows h

theorem pushWord_grows {s t : State} {v : Word} (h : s.pushWord v = .ok t) : Grows s t := by
  rcases pushWord_cases s v with ⟨_, e⟩ | ⟨_, e⟩ <;> rw [e] at h <;> cases h
  exact ((Grows.of_eq (s := s) (t := s.setP (s.p - 2)) rfl rfl).trans (grows_storeByte _ _ _)).trans
      (grows_storeByte _ _ _)

theorem callWordSrc_lawful {w : Word} {src : WordSrc} {s t : State} (h : callWordSrc w src s = .next t) : Lawful s
    t := by
  simp only [callWordSrc] at h
  split at h
  · cases h
  · split at h
    · cases h
    · next q =>
      split at h
      · cases h
      · next e => exact lawful_jumpTo ((evalWordSrc_quiet q).grows.trans (pushWord_grows e)) h

end Sys2Proof.Machine
end

