-- ==== Sys2Proof/Laws/Answers.lean ====
section
/-! SUPPORT. What each shared instruction form answers where its operand can be evaluated: the form's lemma says the
whole next state, so that a statement about an instruction of that form cites it and unfolds nothing. -/

namespace Sys2Proof.Machine

/-- A zero-page word is never at the last address. -/
theorem zpWordAddr_ne (zp : BitVec 7) : zpWordAddr zp ≠ 0xffff := by
  intro h
  have := congrArg BitVec.toNat h
  have h2 : (2 : Word).toNat = 2 := rfl
  have h3 : (0xffff : Word).toNat = 65535 := rfl
  simp only [zpWordAddr, BitVec.toNat_mul, BitVec.toNat_setWidth, h2, h3] at this
  omega

/-- The address of a zero-page word as a number (R100). -/
theorem zpWordAddr_toNat (zp : BitVec 7) : (zpWordAddr zp).toNat = 2 * zp.toNat := by
  have h2 : (2 : Word).toNat = 2 := rfl
  simp only [zpWordAddr, BitVec.toNat_mul, BitVec.toNat_setWidth, h2]
  omega

/-- The address of a zero-page byte as a number. -/
theorem zpByteAddr_toNat (zp : BitVec 7) : (zpByteAddr zp).toNat = zp.toNat := by
  simp only [zpByteAddr, BitVec.toNat_setWidth]
  omega

/-- A zero-page word can always be read. -/
theorem readWord_zp (zp : BitVec 7) (s : State) : s.readWord (zpWordAddr zp) = .ok (wordLocValue (.mem
    (zpWordAddr zp)) s) := by
  rcases readWord_cases s (zpWordAddr zp) with ⟨h, _⟩ | ⟨_, e⟩
  · exact absurd h (zpWordAddr_ne zp)
  · exact e

/-- A zero-page word can always be stored. -/
theorem storeWord_zp (zp : BitVec 7) (s : State) (v : Word) : s.storeWord (zpWordAddr zp) v = .ok ((s.storeByte
    (zpWordAddr zp) (loByte v)).storeByte (zpWordAddr zp + 1) (hiByte v)) := by
  rcases storeWord_cases s (zpWordAddr zp) v with ⟨h, _⟩ | ⟨_, e⟩
  · exact absurd h (zpWordAddr_ne zp)
  · exact e

/-- The word at a zero-page address, by its two bytes. -/
theorem wordLocValue_zp (zp : BitVec 7) (s : State) : wordLocValue (.mem (zpWordAddr zp)) s = joinBytes (s.mem.read
    (2 * zp.toNat + 1)) (s.mem.read (2 * zp.toNat)) := by
  simp only [wordLocValue, State.readByte]
  rw [toNat_succ (zpWordAddr_ne zp), zpWordAddr_toNat]

/-- Results and flags of an 8-bit operation, in the words of Sys2Proof/Safety.lean. -/
theorem binop_byte {op : BinOp} {d v : Byte} {f : Flags} : binop op d v f =
    (specResult op d v f, specFlags op d v f) := binop_eq (by decide) _ _ _ _

/-- Results and flags of a 16-bit operation, in the words of Sys2Proof/Safety.lean. -/
theorem binop_word {op : BinOp} {d v : Word} {f : Flags} : binop op d v f =
    (specResult op d v f, specFlags op d v f) := binop_eq (by decide) _ _ _ _

/-- The next state of `byteRegSrc`. -/
theorem byteRegSrc_answers {op : BinOp} {r : Reg8} {src : ByteSrc} {s s1 : State} {v : Byte}
    (hp : byteSrcPointer src ≠ some r.pair) (he : evalByteSrc src s = .ok (v, s1)) :
    Answers (byteRegSrc op r src s) (ByteRegOutcome s s1 r (specResult op (s.reg8 r) v s.flags) (specFlags op
      (s.reg8 r) v s.flags) src.words) := by
  refine ⟨_, by simp only [byteRegSrc, if_neg hp, he]; rfl, ?_⟩
  rw [binop_byte]
  exact byteReg_outcome (evalByteSrc_quiet he) _ _ _ _

/-- The next state of `wordRegSrc`. -/
theorem wordRegSrc_answers {op : BinOp} {w : Word} {r : Reg16} {src : WordSrc} {s s1 : State} {v : Word}
    (hp : wordSrcPointer src ≠ some r) (he : evalWordSrc w src s = .ok (v, s1)) :
    Answers (wordRegSrc op w r src s) (WordRegOutcome s s1 r (specResult op (s.reg16 r) v s.flags) (specFlags op
      (s.reg16 r) v s.flags) src.words) := by
  refine ⟨_, by simp only [wordRegSrc, if_neg hp, he]; rfl, ?_⟩
  rw [binop_word]
  exact wordReg_outcome (evalWordSrc_quiet he) _ _ _ _

/-- The next state of `byteRegValue`. -/
theorem byteRegValue_answers {op : BinOp} {r : Reg8} {v : Byte} {s : State} :
    Answers (byteRegValue op r v s) (ByteRegOutcome s s r (specResult op (s.reg8 r) v s.flags) (specFlags op
      (s.reg8 r) v s.flags) 1) := by
  refine ⟨_, rfl, ?_⟩
  rw [binop_byte]
  exact byteReg_outcome (Quiet.refl s) _ _ _ _

/-- The next state of `wordRegValue`. -/
theorem wordRegValue_answers {op : BinOp} {r : Reg16} {v : Word} {s : State} :
    Answers (wordRegValue op r v s) (WordRegOutcome s s r (specResult op (s.reg16 r) v s.flags) (specFlags op
      (s.reg16 r) v s.flags) 1) := by
  refine ⟨_, rfl, ?_⟩
  rw [binop_word]
  exact wordReg_outcome (Quiet.refl s) _ _ _ _

/-- The next state of `wordRegZp`. -/
theorem wordRegZp_answers {op : BinOp} {r : Reg16} {zp : BitVec 7} {s : State} :
    Answers (wordRegZp op r zp s) (WordRegOutcome s s r (specResult op (s.reg16 r) (wordLocValue (.mem
      (zpWordAddr zp)) s) s.flags) (specFlags op (s.reg16 r) (wordLocValue (.mem (zpWordAddr zp)) s) s.flags) 1) := by
  simp only [wordRegZp, readWord_zp]
  exact wordRegValue_answers

/-- The next state of `byteZpReg`. -/
theorem byteZpReg_answers {op : BinOp} {r : Reg8} {zp : BitVec 7} {s : State} (hw : s.mem.wf = true) :
    Answers (byteZpReg op zp r s) (ByteDestOutcome s s (.mem (zpByteAddr zp)) (specResult op (s.readByte
      (zpByteAddr zp)) (s.reg8 r) s.flags)
        (specFlags op (s.readByte (zpByteAddr zp)) (s.reg8 r) s.flags) 1) := by
  refine ⟨_, rfl, ?_⟩
  rw [binop_byte]
  exact ⟨advances_advance rfl _, rfl, storesByte_of rfl rfl hw rfl rfl, fun q => rfl, rfl, rfl⟩

/-- The next state of `wordZpReg`. -/
theorem wordZpReg_answers {op : BinOp} {r : Reg16} {zp : BitVec 7} {s : State} (hw : s.mem.wf = true) :
    Answers (wordZpReg op zp r s) (WordDestOutcome s s (.mem (zpWordAddr zp)) (specResult op (wordLocValue (.mem
      (zpWordAddr zp)) s) (s.reg16 r) s.flags)
        (specFlags op (wordLocValue (.mem (zpWordAddr zp)) s) (s.reg16 r) s.flags) 1) := by
  simp only [wordZpReg, readWord_zp, storeWord_zp]
  refine ⟨_, rfl, ?_⟩
  rw [binop_word]
  exact ⟨advances_advance rfl _, rfl, storesWord_of (zpWordAddr_ne zp) rfl rfl hw rfl rfl, fun q => rfl, rfl, rfl⟩

/-- The next state of `byteDestReg`. -/
theorem byteDestReg_answers {op : BinOp} {dst : ByteDest} {r : Reg8} {s s1 : State} {loc : ByteLoc} (hf : dst ≠ .flags)
    (hw : s.mem.wf = true) (hp : byteDestPointer dst ≠ some r.pair) (he : evalByteDest .modify dst s = .ok (loc, s1)) :
    Answers (byteDestReg op dst r s) (ByteDestOutcome s s1 loc (specResult op (byteLocValue loc s) (s.reg8 r) s.flags)
          (specFlags op (byteLocValue loc s) (s.reg8 r) s.flags) dst.words) := by
  refine ⟨_, by simp only [byteDestReg, if_neg hf, if_neg hp, he]; rfl, ?_⟩
  rw [readByteLoc_eq he, binop_byte]
  refine (byteDest_outcome hw he _ _).withFlags ?_
  rintro rfl
  cases dst with
  | stack =>
    simp only [evalByteDest] at he
    split at he <;> cases he
  | flags => exact hf rfl
  | _ => cases he

/-- The next state of `wordDestReg`. -/
theorem wordDestReg_answers {op : BinOp} {dst : WordDest} {r : Reg16} {s s1 : State} {loc : WordLoc}
    (hw : s.mem.wf = true) (hp : wordDestPointer dst ≠ some r) (he : evalWordDest .modify dst s = .ok (loc, s1))
      (ok : wordLocOk loc) :
    Answers (wordDestReg op dst r s) (WordDestOutcome s s1 loc (specResult op (wordLocValue loc s) (s.reg16 r) s.flags)
          (specFlags op (wordLocValue loc s) (s.reg16 r) s.flags) dst.words) := by
  obtain ⟨s2, e2, h2⟩ := wordDest_outcome hw he ok (specResult op (wordLocValue loc s) (s.reg16 r) s.flags)
  refine ⟨_, by simp only [wordDestReg, if_neg hp, he, readWordLoc_eq he ok, binop_word, e2]; rfl, ?_⟩
  exact (h2 _).withFlags

/-- The next state of `byteCompareSrc`. -/
theorem byteCompareSrc_answers {op : BinOp} {r : Reg8} {src : ByteSrc} {s s1 : State} {v : Byte}
    (hp : byteSrcPointer src ≠ some r.pair) (he : evalByteSrc src s = .ok (v, s1)) :
    Answers (byteCompareSrc op r src s) (FlagsOutcome s s1 (specFlags op (s.reg8 r) v s.flags) src.words) := by
  refine ⟨_, by simp only [byteCompareSrc, if_neg hp, he]; rfl, ?_⟩
  rw [binop_byte]
  exact flags_outcome (evalByteSrc_quiet he) _ _

/-- The next state of `wordCompareSrc`. -/
theorem wordCompareSrc_answers {op : BinOp} {w : Word} {r : Reg16} {src : WordSrc} {s s1 : State} {v : Word}
    (hz : zextUnderCompare w src = false) (hp : wordSrcPointer src ≠ some r) (he : evalWordSrc w src s = .ok (v, s1)) :
    Answers (wordCompareSrc op w r src s) (FlagsOutcome s s1 (specFlags op (s.reg16 r) v s.flags) src.words) := by
  refine ⟨_, by simp only [wordCompareSrc, if_neg hp, hz, he]; rfl, ?_⟩
  rw [binop_word]
  exact flags_outcome (evalWordSrc_quiet he) _ _

/-- The next state of `byteCompareValue`. -/
theorem byteCompareValue_answers {op : BinOp} {r : Reg8} {s : State} {v : Byte} :
    Answers (byteCompareValue op r v s) (FlagsOutcome s s (specFlags op (s.reg8 r) v s.flags) 1) := by
  refine ⟨_, rfl, ?_⟩
  rw [binop_byte]
  exact flags_outcome (Quiet.refl s) _ _

/-- The next state of `wordCompareValue`. -/
theorem wordCompareValue_answers {op : BinOp} {r : Reg16} {s : State} {v : Word} :
    Answers (wordCompareValue op r v s) (FlagsOutcome s s (specFlags op (s.reg16 r) v s.flags) 1) := by
  refine ⟨_, rfl, ?_⟩
  rw [binop_word]
  exact flags_outcome (Quiet.refl s) _ _

/-- The next state of `byteShiftSrc8`. -/
theorem byteShiftSrc8_answers {op : ShiftOp} {r : Reg8} {src : Src8} {s s1 : State} {q : Byte}
    (hp : src8Pointer src ≠ some r.pair)
    (he : evalSrc8 1 src s = .ok (q, s1)) : Answers (byteShiftSrc8 op r src s) (ByteShiftOutcome s s1 r (specShift op
      (s.reg8 r) (specCount8 op q)) src.words) := by
  refine ⟨_, by simp only [byteShiftSrc8, if_neg hp, src8StepByte, he]; rfl, ?_⟩
  exact byteShift_outcome (evalSrc8_quiet he) _ _ _ _

/-- The next state of `wordShiftSrc8`. -/
theorem wordShiftSrc8_answers {op : ShiftOp} {r : Reg16} {src : Src8} {s s1 : State} {q : Byte}
    (hp : src8Pointer src ≠ some r)
    (he : evalSrc8 src8StepWord src s = .ok (q, s1)) : Answers (wordShiftSrc8 op r src s) (WordShiftOutcome s s1 r
      (specShift op (s.reg16 r) (q.toNat % 16)) src.words) := by
  refine ⟨_, by simp only [wordShiftSrc8, if_neg hp, he]; rfl, ?_⟩
  exact wordShift_outcome (evalSrc8_quiet he) _ _ _ _

/-- The target of a branch, by the signed offset (R211). -/
theorem branchTarget_eq (s : State) (imm : BitVec 8) : s.branchTarget imm = s.pc + BitVec.ofInt 16 (2 * imm.toInt) := by
  rw [State.branchTarget]
  congr 1
  apply BitVec.eq_of_toInt_eq
  rw [BitVec.toInt_mul, BitVec.toInt_ofInt]
  have : (imm.signExtend 16).toInt = imm.toInt := BitVec.toInt_signExtend_of_le (by decide)
  rw [this]; rfl

/-- Setting `pc` is the outcome of a transfer. -/
theorem setPc_outcome (s : State) (x : Word) : PcOutcome s s x (s.setPc x) :=
    ⟨rfl, fun _ => rfl, rfl, rfl, rfl, rfl, rfl⟩

/-- What a conditional branch does, either way (R212). -/
theorem branchIf_answers {cc : Cond} {imm : BitVec 8} {s : State} {P : Prop} (hP : cc.holds s.flags = true ↔ P) :
    (P → Answers (branchIf cc imm s) (PcOutcome s s (s.pc + BitVec.ofInt 16 (2 * imm.toInt)))) ∧
          (¬ P → Answers (branchIf cc imm s) (PcOutcome s s (s.pc + 2))) := by
  refine ⟨fun h => ⟨_, rfl, ?_⟩, fun h => ⟨_, rfl, ?_⟩⟩
  · rw [if_pos (hP.2 h), branchTarget_eq]; exact setPc_outcome _ _
  · rw [if_neg (fun e => h (hP.1 e))]; exact setPc_outcome _ _

/-- What a push and a jump leave (R215, R232). -/
theorem call_outcome {s s1 : State} (q : Quiet s s1) (hw : s.mem.wf = true) (ra v : Word) :
    CallOutcome s s1 ra v ((((s1.setP (s.p - 2)).storeByte (stackAddr (s.p - 2)) (loByte ra)).storeByte (stackAddr
      (s.p - 2) + 1)
      (hiByte ra)).setPc v) := by
  obtain ⟨hpc, hf, hm, hs⟩ := q
  exact ⟨rfl, rfl, storesWord_of (s1 := s1.setP (s.p - 2)) (stackAddr_ne_top _) hm hs hw rfl rfl, fun q => rfl, hf, rfl⟩

/-- A jump to an even address is made. -/
theorem jumpTo_even {s : State} {v : Word} (h : v.getLsbD 0 = false) : s.jumpTo v = .next (s.setPc v) := by
  rw [State.jumpTo, h]; rfl

/-- A jump to an odd address is refused (R21). -/
theorem jumpTo_odd {s : State} {v : Word} (h : v.getLsbD 0 = true) : s.jumpTo v = .refused .oddPc := by
  rw [State.jumpTo, h]; rfl

/-- No source but `[pop]` moves the stack pointer. -/
theorem evalWordSrc_p {w : Word} {src : WordSrc} {s s1 : State} {v : Word} (h1 : src ≠ .pop)
    (he : evalWordSrc w src s = .ok (v, s1)) : s1.p = s.p := by
  cases src with
  | pop => exact absurd rfl h1
  | mem m =>
    simp only [evalWordSrc] at he
    split at he
    · cases he
    · cases he; simp
  | _ => cases he; rfl

end Sys2Proof.Machine
end

