-- ==== Sys2Proof/Laws/Decode.lean ====
section
/-! SUPPORT. The decoder on words of each shape that the encoder writes, field by field, and the operand codes of each
role: decoding a code gives the operand back. -/

namespace Sys2Proof

/-! ### Numbers -/

@[simp] theorem reg8OfNum_num (r : Reg8) : reg8OfNum r.num = r := by cases r <;> rfl

@[simp] theorem reg16OfNum_num (k : Reg16) : reg16OfNum k.num = k := by cases k <;> rfl

@[simp] theorem num_reg8OfNum (n : BitVec 3) : (reg8OfNum n).num = n := by revert n; decide

@[simp] theorem num_reg16OfNum (n : BitVec 2) : (reg16OfNum n).num = n := by revert n; decide

theorem reg8OfNum_split (r : Reg8) : reg8OfNum (r.rr ++ r.low) = r := by cases r <;> rfl

theorem num_pair (r : Reg8) : r.num.extractLsb' 1 2 = r.pair.num := by cases r <;> rfl

/-! ### Fields of a word with one of the encoder's shapes -/

section
variable (aaa : BitVec 3) (r : Reg8) (k : Reg16) (dz : BitVec 2) (op : BitVec 6) (d : BitVec 1) (zp : BitVec 7)
  (o m : BitVec 1) (low : BitVec 8) (imm : Word)

theorem wordA8_bits : (wordA8 aaa r dz op).getLsbD 15 = true ∧ (wordA8 aaa r dz op).getLsbD 10 = true ∧
    (wordA8 aaa r dz op).getLsbD 7 = dz.getLsbD 1 ∧ (wordA8 aaa r dz op).getLsbD 6 = dz.getLsbD 0 := by
  simp only [wordA8, BitVec.getLsbD_append]
  simp

theorem wordA8_op : fieldOp (wordA8 aaa r dz op) = op := by
  ext i hi
  simp only [fieldOp, wordA8, BitVec.getElem_extractLsb', BitVec.getLsbD_append]
  interval_cases i <;> simp

theorem wordA8_aaa : fieldAaa (wordA8 aaa r dz op) = aaa := by
  ext i hi
  simp only [fieldAaa, wordA8, BitVec.getElem_extractLsb', BitVec.getLsbD_append]
  interval_cases i <;> simp

theorem wordA8_reg : reg8OfNum (fieldRr (wordA8 aaa r dz op) ++ (wordA8 aaa r dz op).extractLsb' 14 1) = r := by
  have h1 : fieldRr (wordA8 aaa r dz op) = r.rr := by
    ext i hi
    simp only [fieldRr, wordA8, BitVec.getElem_extractLsb', BitVec.getLsbD_append]
    interval_cases i <;> simp
  have h2 : (wordA8 aaa r dz op).extractLsb' 14 1 = r.low := by
    ext i hi
    simp only [wordA8, BitVec.getElem_extractLsb', BitVec.getLsbD_append]
    interval_cases i; simp
  rw [h1, h2, reg8OfNum_split]

theorem wordA8Zp_bits : (wordA8Zp aaa r d zp).getLsbD 15 = true ∧ (wordA8Zp aaa r d zp).getLsbD 10 = false ∧
    (wordA8Zp aaa r d zp).getLsbD 7 = d.getLsbD 0 := by
  simp only [wordA8Zp, BitVec.getLsbD_append]
  simp

theorem wordA8Zp_zp : fieldZp (wordA8Zp aaa r d zp) = zp := by
  ext i hi
  simp only [fieldZp, wordA8Zp, BitVec.getElem_extractLsb', BitVec.getLsbD_append]
  interval_cases i <;> simp

theorem wordA8Zp_aaa : fieldAaa (wordA8Zp aaa r d zp) = aaa := by
  ext i hi
  simp only [fieldAaa, wordA8Zp, BitVec.getElem_extractLsb', BitVec.getLsbD_append]
  interval_cases i <;> simp

theorem wordA8Zp_reg : reg8OfNum (fieldRr (wordA8Zp aaa r d zp) ++ (wordA8Zp aaa r d zp).extractLsb' 14 1) = r := by
  have h1 : fieldRr (wordA8Zp aaa r d zp) = r.rr := by
    ext i hi
    simp only [fieldRr, wordA8Zp, BitVec.getElem_extractLsb', BitVec.getLsbD_append]
    interval_cases i <;> simp
  have h2 : (wordA8Zp aaa r d zp).extractLsb' 14 1 = r.low := by
    ext i hi
    simp only [wordA8Zp, BitVec.getElem_extractLsb', BitVec.getLsbD_append]
    interval_cases i; simp
  rw [h1, h2, reg8OfNum_split]

theorem wordA16_bits : (wordA16 aaa k dz op).getLsbD 15 = false ∧ (wordA16 aaa k dz op).getLsbD 14 = true ∧
    (wordA16 aaa k dz op).getLsbD 10 = true ∧
    (wordA16 aaa k dz op).getLsbD 7 = dz.getLsbD 1 ∧ (wordA16 aaa k dz op).getLsbD 6 = dz.getLsbD 0 := by
  simp only [wordA16, BitVec.getLsbD_append]
  simp

theorem wordA16_op : fieldOp (wordA16 aaa k dz op) = op := by
  ext i hi
  simp only [fieldOp, wordA16, BitVec.getElem_extractLsb', BitVec.getLsbD_append]
  interval_cases i <;> simp

theorem wordA16_aaa : fieldAaa (wordA16 aaa k dz op) = aaa := by
  ext i hi
  simp only [fieldAaa, wordA16, BitVec.getElem_extractLsb', BitVec.getLsbD_append]
  interval_cases i <;> simp

theorem wordA16_reg : reg16OfNum (fieldRr (wordA16 aaa k dz op)) = k := by
  have h1 : fieldRr (wordA16 aaa k dz op) = k.num := by
    ext i hi
    simp only [fieldRr, wordA16, BitVec.getElem_extractLsb', BitVec.getLsbD_append]
    interval_cases i <;> simp
  rw [h1, reg16OfNum_num]

theorem wordA16Zp_bits : (wordA16Zp aaa k d zp).getLsbD 15 = false ∧ (wordA16Zp aaa k d zp).getLsbD 14 = true ∧
    (wordA16Zp aaa k d zp).getLsbD 10 = false ∧ (wordA16Zp aaa k d zp).getLsbD 7 = d.getLsbD 0 := by
  simp only [wordA16Zp, BitVec.getLsbD_append]
  simp

theorem wordA16Zp_zp : fieldZp (wordA16Zp aaa k d zp) = zp := by
  ext i hi
  simp only [fieldZp, wordA16Zp, BitVec.getElem_extractLsb', BitVec.getLsbD_append]
  interval_cases i <;> simp

theorem wordA16Zp_aaa : fieldAaa (wordA16Zp aaa k d zp) = aaa := by
  ext i hi
  simp only [fieldAaa, wordA16Zp, BitVec.getElem_extractLsb', BitVec.getLsbD_append]
  interval_cases i <;> simp

theorem wordA16Zp_reg : reg16OfNum (fieldRr (wordA16Zp aaa k d zp)) = k := by
  have h1 : fieldRr (wordA16Zp aaa k d zp) = k.num := by
    ext i hi
    simp only [fieldRr, wordA16Zp, BitVec.getElem_extractLsb', BitVec.getLsbD_append]
    interval_cases i <;> simp
  rw [h1, reg16OfNum_num]

theorem wordM8_bits : (wordM8 o m r low).getLsbD 15 = false ∧ (wordM8 o m r low).getLsbD 14 = false ∧
    (wordM8 o m r low).getLsbD 13 = true ∧ (wordM8 o m r low).getLsbD 12 = r.low.getLsbD 0 ∧
    (wordM8 o m r low).getLsbD 11 = o.getLsbD 0 ∧ (wordM8 o m r low).getLsbD 10 = m.getLsbD 0 ∧
    (wordM8 o m r low).getLsbD 7 = low.getLsbD 7 ∧ (wordM8 o m r low).getLsbD 6 = low.getLsbD 6 := by
  simp only [wordM8, BitVec.getLsbD_append]
  simp

theorem wordM8_low : fieldImm8 (wordM8 o m r low) = low := by
  ext i hi
  simp only [fieldImm8, wordM8, BitVec.getElem_extractLsb', BitVec.getLsbD_append]
  interval_cases i <;> simp

theorem wordM8_op : fieldOp (wordM8 o m r low) = low.extractLsb' 0 6 := by
  ext i hi
  simp only [fieldOp, wordM8, BitVec.getElem_extractLsb', BitVec.getLsbD_append]
  interval_cases i <;> simp

theorem wordM8_zp : fieldZp (wordM8 o m r low) = low.extractLsb' 0 7 := by
  ext i hi
  simp only [fieldZp, wordM8, BitVec.getElem_extractLsb', BitVec.getLsbD_append]
  interval_cases i <;> simp

theorem wordM8_rr : fieldRr (wordM8 o m r low) = r.rr := by
  ext i hi
  simp only [fieldRr, wordM8, BitVec.getElem_extractLsb', BitVec.getLsbD_append]
  interval_cases i <;> simp

theorem wordM8_reg : reg8OfNum (fieldRr (wordM8 o m r low) ++ (wordM8 o m r low).extractLsb' 12 1) = r := by
  have h2 : (wordM8 o m r low).extractLsb' 12 1 = r.low := by
    ext i hi
    simp only [wordM8, BitVec.getElem_extractLsb', BitVec.getLsbD_append]
    interval_cases i; simp
  rw [wordM8_rr, h2, reg8OfNum_split]

theorem wordM16_bits : (wordM16 o m k low).getLsbD 15 = false ∧ (wordM16 o m k low).getLsbD 14 = false ∧
    (wordM16 o m k low).getLsbD 13 = false ∧ (wordM16 o m k low).getLsbD 12 = true ∧
    (wordM16 o m k low).getLsbD 11 = o.getLsbD 0 ∧ (wordM16 o m k low).getLsbD 10 = m.getLsbD 0 ∧
    (wordM16 o m k low).getLsbD 7 = low.getLsbD 7 ∧ (wordM16 o m k low).getLsbD 6 = low.getLsbD 6 := by
  simp only [wordM16, BitVec.getLsbD_append]
  simp

theorem wordM16_low : fieldImm8 (wordM16 o m k low) = low := by
  ext i hi
  simp only [fieldImm8, wordM16, BitVec.getElem_extractLsb', BitVec.getLsbD_append]
  interval_cases i <;> simp

theorem wordM16_op : fieldOp (wordM16 o m k low) = low.extractLsb' 0 6 := by
  ext i hi
  simp only [fieldOp, wordM16, BitVec.getElem_extractLsb', BitVec.getLsbD_append]
  interval_cases i <;> simp

theorem wordM16_zp : fieldZp (wordM16 o m k low) = low.extractLsb' 0 7 := by
  ext i hi
  simp only [fieldZp, wordM16, BitVec.getElem_extractLsb', BitVec.getLsbD_append]
  interval_cases i <;> simp

theorem wordM16_rr : fieldRr (wordM16 o m k low) = k.num := by
  ext i hi
  simp only [fieldRr, wordM16, BitVec.getElem_extractLsb', BitVec.getLsbD_append]
  interval_cases i <;> simp

/-! ### The decoder, form by form (R86) -/

theorem decodeWords_regSrc8 :
    decodeWords (wordA8 aaa r 0b00#2 op) imm = (decodeByteSrc op imm).map (binop8RegSrc aaa r) := by
  obtain ⟨h1, h2, h3, h4⟩ := wordA8_bits aaa r 0b00#2 op
  simp only [decodeWords, decodeBinop8, h1, h2, h3, h4, wordA8_op, wordA8_aaa, wordA8_reg, if_true]
  rfl

theorem decodeWords_regImm8 : decodeWords (wordA8 aaa r 0b01#2 op) imm = some (binop8RegImm aaa r op) := by
  obtain ⟨h1, h2, h3, h4⟩ := wordA8_bits aaa r 0b01#2 op
  simp only [decodeWords, decodeBinop8, h1, h2, h3, h4, wordA8_op, wordA8_aaa, wordA8_reg, if_true]
  rfl

theorem decodeWords_destReg8 : decodeWords (wordA8 aaa r 0b10#2 op) imm =
    if aaa = 7 then (decodeByteSrc op imm).map (.test8RegSrc r)
    else if isByteReg op then alternate8 aaa (reg8OfNum (op.extractLsb' 0 3)) r
    else (decodeByteDest op imm).bind fun dst => binop8DestReg aaa dst r := by
  obtain ⟨h1, h2, h3, h4⟩ := wordA8_bits aaa r 0b10#2 op
  simp only [decodeWords, decodeBinop8, h1, h2, h3, h4, wordA8_op, wordA8_aaa, wordA8_reg, if_true]
  rfl

theorem decodeWords_shift8 : decodeWords (wordA8 aaa r 0b11#2 op) imm = shift8RegSrc8 aaa r op imm := by
  obtain ⟨h1, h2, h3, h4⟩ := wordA8_bits aaa r 0b11#2 op
  simp only [decodeWords, decodeBinop8, h1, h2, h3, h4, wordA8_op, wordA8_aaa, wordA8_reg, if_true]
  rfl

theorem decodeWords_regZp8 : decodeWords (wordA8Zp aaa r 0#1 zp) imm = some (binop8RegZp aaa r zp) := by
  obtain ⟨h1, h2, h3⟩ := wordA8Zp_bits aaa r 0#1 zp
  simp only [decodeWords, decodeBinop8, h1, h2, h3, wordA8Zp_zp, wordA8Zp_aaa, wordA8Zp_reg, if_true]
  rfl

theorem decodeWords_zpReg8 : decodeWords (wordA8Zp aaa r 1#1 zp) imm = some (binop8ZpReg aaa zp r) := by
  obtain ⟨h1, h2, h3⟩ := wordA8Zp_bits aaa r 1#1 zp
  simp only [decodeWords, decodeBinop8, h1, h2, h3, wordA8Zp_zp, wordA8Zp_aaa, wordA8Zp_reg, if_true]
  rfl

theorem decodeWords_regSrc16 :
    decodeWords (wordA16 aaa k 0b00#2 op) imm = (decodeWordSrc op imm).map (binop16RegSrc aaa k) := by
  obtain ⟨h0, h1, h2, h3, h4⟩ := wordA16_bits aaa k 0b00#2 op
  simp only [decodeWords, decodeBinop16, h0, h1, h2, h3, h4, wordA16_op, wordA16_aaa, wordA16_reg, if_true]
  rfl

theorem decodeWords_regImm16 : decodeWords (wordA16 aaa k 0b01#2 op) imm = some (binop16RegImm aaa k op) := by
  obtain ⟨h0, h1, h2, h3, h4⟩ := wordA16_bits aaa k 0b01#2 op
  simp only [decodeWords, decodeBinop16, h0, h1, h2, h3, h4, wordA16_op, wordA16_aaa, wordA16_reg, if_true]
  rfl

theorem decodeWords_destReg16 : decodeWords (wordA16 aaa k 0b10#2 op) imm =
    if aaa = 7 then (decodeWordSrc op imm).map (.test16RegSrc k)
    else if isWordReg op then alternate16 aaa (reg16OfNum (op.extractLsb' 1 2)) k
    else (decodeWordDest op imm).bind fun dst => binop16DestReg aaa dst k := by
  obtain ⟨h0, h1, h2, h3, h4⟩ := wordA16_bits aaa k 0b10#2 op
  simp only [decodeWords, decodeBinop16, h0, h1, h2, h3, h4, wordA16_op, wordA16_aaa, wordA16_reg, if_true]
  rfl

theorem decodeWords_shift16 : decodeWords (wordA16 aaa k 0b11#2 op) imm = shift16RegSrc8 aaa k op imm := by
  obtain ⟨h0, h1, h2, h3, h4⟩ := wordA16_bits aaa k 0b11#2 op
  simp only [decodeWords, decodeBinop16, h0, h1, h2, h3, h4, wordA16_op, wordA16_aaa, wordA16_reg, if_true]
  rfl

theorem decodeWords_regZp16 : decodeWords (wordA16Zp aaa k 0#1 zp) imm = some (binop16RegZp aaa k zp) := by
  obtain ⟨h0, h1, h2, h3⟩ := wordA16Zp_bits aaa k 0#1 zp
  simp only [decodeWords, decodeBinop16, h0, h1, h2, h3, wordA16Zp_zp, wordA16Zp_aaa, wordA16Zp_reg, if_true]
  rfl

theorem decodeWords_zpReg16 : decodeWords (wordA16Zp aaa k 1#1 zp) imm = some (binop16ZpReg aaa zp k) := by
  obtain ⟨h0, h1, h2, h3⟩ := wordA16Zp_bits aaa k 1#1 zp
  simp only [decodeWords, decodeBinop16, h0, h1, h2, h3, wordA16Zp_zp, wordA16Zp_aaa, wordA16Zp_reg, if_true]
  rfl

theorem low_bits8 (z : BitVec 1) : (d ++ z ++ op).getLsbD 7 = d.getLsbD 0 ∧ (d ++ z ++ op).getLsbD 6 = z.getLsbD 0 ∧
    (d ++ z ++ op).extractLsb' 0 6 = op := by
  refine ⟨?_, ?_, ?_⟩
  · simp only [BitVec.getLsbD_append]; simp
  · simp only [BitVec.getLsbD_append]; simp
  · ext i hi
    simp only [BitVec.getElem_extractLsb', BitVec.getLsbD_append]
    interval_cases i <;> simp

theorem dz_bits8 : (dz ++ op).getLsbD 7 = dz.getLsbD 1 ∧ (dz ++ op).getLsbD 6 = dz.getLsbD 0 ∧
    (dz ++ op).extractLsb' 0 6 = op := by
  refine ⟨?_, ?_, ?_⟩
  · simp only [BitVec.getLsbD_append]; simp
  · simp only [BitVec.getLsbD_append]; simp
  · ext i hi
    simp only [BitVec.getElem_extractLsb', BitVec.getLsbD_append]
    interval_cases i <;> simp

theorem zp_bits8 : (d ++ zp).getLsbD 7 = d.getLsbD 0 ∧ (d ++ zp).extractLsb' 0 7 = zp := by
  refine ⟨?_, ?_⟩
  · simp only [BitVec.getLsbD_append]; simp
  · ext i hi
    simp only [BitVec.getElem_extractLsb', BitVec.getLsbD_append]
    interval_cases i <;> simp

theorem decodeWords_movImm8 : decodeWords (wordM8 0#1 1#1 r low) imm = some (.mov8RegImm r low) := by
  obtain ⟨h0, h1, h2, h3, h4, h5, h6, h7⟩ := wordM8_bits r 0#1 1#1 (low)
  simp only [decodeWords, decodeOther8, h0, h1, h2, h3, h4, h5, h6, h7, wordM8_reg, if_true, wordM8_low]
  rfl

theorem decodeWords_movSrc8 : decodeWords (wordM8 1#1 1#1 r (0b00#2 ++ op)) imm = (decodeByteSrc op imm).map
    (.mov8RegSrc r) := by
  obtain ⟨h0, h1, h2, h3, h4, h5, h6, h7⟩ := wordM8_bits r 1#1 1#1 (0b00#2 ++ op)
  obtain ⟨g1, g2, g3⟩ := dz_bits8 0b00#2 op
  simp only [decodeWords, decodeOther8, h0, h1, h2, h3, h4, h5, h6, h7, wordM8_reg, if_true, g1, g2, g3, wordM8_op]
  rfl

theorem decodeWords_shiftImm8 : decodeWords (wordM8 1#1 1#1 r (0b01#2 ++ op)) imm = some (shift8RegImm op r) := by
  obtain ⟨h0, h1, h2, h3, h4, h5, h6, h7⟩ := wordM8_bits r 1#1 1#1 (0b01#2 ++ op)
  obtain ⟨g1, g2, g3⟩ := dz_bits8 0b01#2 op
  simp only [decodeWords, decodeOther8, h0, h1, h2, h3, h4, h5, h6, h7, wordM8_reg, if_true, g1, g2, g3, wordM8_op]
  rfl

theorem decodeWords_movDest8 : decodeWords (wordM8 1#1 1#1 r (0b10#2 ++ op)) imm =
    if isByteReg op then some (.not8RegReg (reg8OfNum (op.extractLsb' 0 3)) r) else
      (decodeByteDest op imm).map fun dst => .mov8DestReg dst r := by
  obtain ⟨h0, h1, h2, h3, h4, h5, h6, h7⟩ := wordM8_bits r 1#1 1#1 (0b10#2 ++ op)
  obtain ⟨g1, g2, g3⟩ := dz_bits8 0b10#2 op
  simp only [decodeWords, decodeOther8, h0, h1, h2, h3, h4, h5, h6, h7, wordM8_reg, if_true, g1, g2, g3, wordM8_op]
  rfl

theorem decodeWords_swapDest8 : decodeWords (wordM8 1#1 1#1 r (0b11#2 ++ op)) imm =
    (decodeByteDest op imm).map fun dst => .swap8DestReg dst r := by
  obtain ⟨h0, h1, h2, h3, h4, h5, h6, h7⟩ := wordM8_bits r 1#1 1#1 (0b11#2 ++ op)
  obtain ⟨g1, g2, g3⟩ := dz_bits8 0b11#2 op
  simp only [decodeWords, decodeOther8, h0, h1, h2, h3, h4, h5, h6, h7, wordM8_reg, if_true, g1, g2, g3, wordM8_op]
  rfl

theorem decodeWords_swapZp8 : decodeWords (wordM8 0#1 0#1 r (1#1 ++ zp)) imm = some (.swap8ZpReg zp r) := by
  obtain ⟨h0, h1, h2, h3, h4, h5, h6, h7⟩ := wordM8_bits r 0#1 0#1 (1#1 ++ zp)
  obtain ⟨g1, g2⟩ := zp_bits8 1#1 zp
  simp only [decodeWords, decodeOther8, h0, h1, h2, h3, h4, h5, h6, h7, wordM8_reg, if_true, g1, g2, wordM8_zp]
  rfl

theorem decodeWords_movRegZp8 : decodeWords (wordM8 1#1 0#1 r (0#1 ++ zp)) imm = some (.mov8RegZp r zp) := by
  obtain ⟨h0, h1, h2, h3, h4, h5, h6, h7⟩ := wordM8_bits r 1#1 0#1 (0#1 ++ zp)
  obtain ⟨g1, g2⟩ := zp_bits8 0#1 zp
  simp only [decodeWords, decodeOther8, h0, h1, h2, h3, h4, h5, h6, h7, wordM8_reg, if_true, g1, g2, wordM8_zp]
  rfl

theorem decodeWords_movZpReg8 : decodeWords (wordM8 1#1 0#1 r (1#1 ++ zp)) imm = some (.mov8ZpReg zp r) := by
  obtain ⟨h0, h1, h2, h3, h4, h5, h6, h7⟩ := wordM8_bits r 1#1 0#1 (1#1 ++ zp)
  obtain ⟨g1, g2⟩ := zp_bits8 1#1 zp
  simp only [decodeWords, decodeOther8, h0, h1, h2, h3, h4, h5, h6, h7, wordM8_reg, if_true, g1, g2, wordM8_zp]
  rfl

theorem decodeWords_mulImm8 (h : r.pair.mulOk = true) :
    decodeWords (wordM8 0#1 0#1 r (0#1 ++ mulImmZ ++ op)) imm = some (.mul8RegImm r op) := by
  have hr : r.rr ≠ 0 := by cases r <;> first | decide | exact absurd h (by decide)
  obtain ⟨h0, h1, h2, h3, h4, h5, h6, h7⟩ := wordM8_bits r 0#1 0#1 (0#1 ++ mulImmZ ++ op)
  have hreg := wordM8_reg r 0#1 0#1 (0#1 ++ mulImmZ ++ op)
  rw [wordM8_rr] at hreg
  obtain ⟨g1, g2, g3⟩ := low_bits8 op 0#1 (mulImmZ)
  simp only [decodeWords, decodeOther8, decodeMulJump8, h0, h1, h2, h3, h4, h5, h6, h7, g1, g2, g3, wordM8_rr, hreg, wordM8_op,
    if_true, ne_eq, hr, not_false_eq_true]
  rfl

theorem decodeWords_mulSrc8 (h : r.pair.mulOk = true) :
    decodeWords (wordM8 0#1 0#1 r (0#1 ++ ~~~mulImmZ ++ op)) imm = (decodeSrc8 op imm).map (.mul8RegSrc8 r) := by
  have hr : r.rr ≠ 0 := by cases r <;> first | decide | exact absurd h (by decide)
  obtain ⟨h0, h1, h2, h3, h4, h5, h6, h7⟩ := wordM8_bits r 0#1 0#1 (0#1 ++ ~~~mulImmZ ++ op)
  have hreg := wordM8_reg r 0#1 0#1 (0#1 ++ ~~~mulImmZ ++ op)
  rw [wordM8_rr] at hreg
  obtain ⟨g1, g2, g3⟩ := low_bits8 op 0#1 (~~~mulImmZ)
  simp only [decodeWords, decodeOther8, decodeMulJump8, h0, h1, h2, h3, h4, h5, h6, h7, g1, g2, g3, wordM8_rr, hreg, wordM8_op,
    if_true, ne_eq, hr, not_false_eq_true]
  rfl

theorem decodeWords_movImm16 : decodeWords (wordM16 0#1 1#1 k low) imm = some (.mov16RegImm k low) := by
  obtain ⟨h0, h1, h2, h3, h4, h5, h6, h7⟩ := wordM16_bits k 0#1 1#1 (low)
  simp only [decodeWords, decodeOther16, h0, h1, h2, h3, h4, h5, h6, h7, wordM16_rr, reg16OfNum_num, if_true, wordM16_low]
  rfl

theorem decodeWords_movSrc16 : decodeWords (wordM16 1#1 1#1 k (0b00#2 ++ op)) imm = (decodeWordSrc op imm).map
    (.mov16RegSrc k) := by
  obtain ⟨h0, h1, h2, h3, h4, h5, h6, h7⟩ := wordM16_bits k 1#1 1#1 (0b00#2 ++ op)
  obtain ⟨g1, g2, g3⟩ := dz_bits8 0b00#2 op
  simp only [decodeWords, decodeOther16, h0, h1, h2, h3, h4, h5, h6, h7, wordM16_rr, reg16OfNum_num, if_true, g1, g2, g3, wordM16_op]
  rfl

theorem decodeWords_shiftImm16 : decodeWords (wordM16 1#1 1#1 k (0b01#2 ++ op)) imm = some (shift16RegImm op k) := by
  obtain ⟨h0, h1, h2, h3, h4, h5, h6, h7⟩ := wordM16_bits k 1#1 1#1 (0b01#2 ++ op)
  obtain ⟨g1, g2, g3⟩ := dz_bits8 0b01#2 op
  simp only [decodeWords, decodeOther16, h0, h1, h2, h3, h4, h5, h6, h7, wordM16_rr, reg16OfNum_num, if_true, g1, g2, g3, wordM16_op]
  rfl

theorem decodeWords_movDest16 : decodeWords (wordM16 1#1 1#1 k (0b10#2 ++ op)) imm =
    if isWordReg op then some (.not16RegReg (reg16OfNum (op.extractLsb' 1 2)) k) else
      (decodeWordDest op imm).map fun dst => .mov16DestReg dst k := by
  obtain ⟨h0, h1, h2, h3, h4, h5, h6, h7⟩ := wordM16_bits k 1#1 1#1 (0b10#2 ++ op)
  obtain ⟨g1, g2, g3⟩ := dz_bits8 0b10#2 op
  simp only [decodeWords, decodeOther16, h0, h1, h2, h3, h4, h5, h6, h7, wordM16_rr, reg16OfNum_num, if_true, g1, g2, g3, wordM16_op]
  rfl

theorem decodeWords_swapDest16 : decodeWords (wordM16 1#1 1#1 k (0b11#2 ++ op)) imm =
    (decodeWordDest op imm).map fun dst => .swap16DestReg dst k := by
  obtain ⟨h0, h1, h2, h3, h4, h5, h6, h7⟩ := wordM16_bits k 1#1 1#1 (0b11#2 ++ op)
  obtain ⟨g1, g2, g3⟩ := dz_bits8 0b11#2 op
  simp only [decodeWords, decodeOther16, h0, h1, h2, h3, h4, h5, h6, h7, wordM16_rr, reg16OfNum_num, if_true, g1, g2, g3, wordM16_op]
  rfl

theorem decodeWords_swapZp16 : decodeWords (wordM16 0#1 0#1 k (1#1 ++ zp)) imm = some (.swap16ZpReg zp k) := by
  obtain ⟨h0, h1, h2, h3, h4, h5, h6, h7⟩ := wordM16_bits k 0#1 0#1 (1#1 ++ zp)
  obtain ⟨g1, g2⟩ := zp_bits8 1#1 zp
  simp only [decodeWords, decodeOther16, h0, h1, h2, h3, h4, h5, h6, h7, wordM16_rr, reg16OfNum_num, if_true, g1, g2, wordM16_zp]
  rfl

theorem decodeWords_movRegZp16 : decodeWords (wordM16 1#1 0#1 k (0#1 ++ zp)) imm = some (.mov16RegZp k zp) := by
  obtain ⟨h0, h1, h2, h3, h4, h5, h6, h7⟩ := wordM16_bits k 1#1 0#1 (0#1 ++ zp)
  obtain ⟨g1, g2⟩ := zp_bits8 0#1 zp
  simp only [decodeWords, decodeOther16, h0, h1, h2, h3, h4, h5, h6, h7, wordM16_rr, reg16OfNum_num, if_true, g1, g2, wordM16_zp]
  rfl

theorem decodeWords_movZpReg16 : decodeWords (wordM16 1#1 0#1 k (1#1 ++ zp)) imm = some (.mov16ZpReg zp k) := by
  obtain ⟨h0, h1, h2, h3, h4, h5, h6, h7⟩ := wordM16_bits k 1#1 0#1 (1#1 ++ zp)
  obtain ⟨g1, g2⟩ := zp_bits8 1#1 zp
  simp only [decodeWords, decodeOther16, h0, h1, h2, h3, h4, h5, h6, h7, wordM16_rr, reg16OfNum_num, if_true, g1, g2, wordM16_zp]
  rfl

theorem decodeWords_mulImm16 (h : k.mulOk = true) :
    decodeWords (wordM16 0#1 0#1 k (0#1 ++ mulImmZ ++ op)) imm = some (.mul16RegImm k op) := by
  have hr : k.num ≠ 0 := by cases k <;> first | decide | exact absurd h (by decide)
  obtain ⟨h0, h1, h2, h3, h4, h5, h6, h7⟩ := wordM16_bits k 0#1 0#1 (0#1 ++ mulImmZ ++ op)
  obtain ⟨g1, g2, g3⟩ := low_bits8 op 0#1 (mulImmZ)
  simp only [decodeWords, decodeOther16, decodeMulJump16, h0, h1, h2, h3, h4, h5, h6, h7, g1, g2, g3, wordM16_rr, reg16OfNum_num, wordM16_op,
    if_true, ne_eq, hr, not_false_eq_true]
  rfl

theorem decodeWords_mulSrc16 (h : k.mulOk = true) :
    decodeWords (wordM16 0#1 0#1 k (0#1 ++ ~~~mulImmZ ++ op)) imm = (decodeSrc8 op imm).map (.mul16RegSrc8 k) := by
  have hr : k.num ≠ 0 := by cases k <;> first | decide | exact absurd h (by decide)
  obtain ⟨h0, h1, h2, h3, h4, h5, h6, h7⟩ := wordM16_bits k 0#1 0#1 (0#1 ++ ~~~mulImmZ ++ op)
  obtain ⟨g1, g2, g3⟩ := low_bits8 op 0#1 (~~~mulImmZ)
  simp only [decodeWords, decodeOther16, decodeMulJump16, h0, h1, h2, h3, h4, h5, h6, h7, g1, g2, g3, wordM16_rr, reg16OfNum_num, wordM16_op,
    if_true, ne_eq, hr, not_false_eq_true]
  rfl

theorem decodeWords_branch (c : BitVec 4) : decodeWords (0b0000#4 ++ c ++ low) imm = some (branchOf c low) := by
  have h1 : (0b0000#4 ++ c ++ low).getLsbD 15 = false ∧ (0b0000#4 ++ c ++ low).getLsbD 14 = false ∧
      (0b0000#4 ++ c ++ low).getLsbD 13 = false ∧ (0b0000#4 ++ c ++ low).getLsbD 12 = false := by
    simp only [BitVec.getLsbD_append]
    simp
  have h2 : (0b0000#4 ++ c ++ low).extractLsb' 8 4 = c := by
    ext i hi
    simp only [BitVec.getElem_extractLsb', BitVec.getLsbD_append]
    interval_cases i <;> simp
  have h3 : fieldImm8 (0b0000#4 ++ c ++ low) = low := by
    ext i hi
    simp only [fieldImm8, BitVec.getElem_extractLsb', BitVec.getLsbD_append]
    interval_cases i <;> simp
  simp only [decodeWords, h1, h2, h3]
  rfl

theorem decodeWords_jump (h : op ≠ 0b000101) :
    decodeWords (0b0010000000#10 ++ op) imm = (decodeWordSrc op imm).map .jumpSrc := by
  have hw : (0b0010000000#10 ++ op : Word) = wordM8 0#1 0#1 .a (0#1 ++ 0#1 ++ op) := by
    ext i hi
    simp only [wordM8, BitVec.getElem_append]
    interval_cases i <;> first | rfl | (simp; done) | (simp; rfl)
  rw [hw]
  obtain ⟨h0, h1, h2, h3, h4, h5, h6, h7⟩ := wordM8_bits .a 0#1 0#1 (0#1 ++ 0#1 ++ op)
  obtain ⟨g1, g2, g3⟩ := low_bits8 op 0#1 0#1
  simp only [decodeWords, decodeOther8, decodeMulJump8, h0, h1, h2, h3, h4, h5, h6, h7, g1, g2, g3, wordM8_rr, wordM8_op,
    if_neg h]
  rfl

theorem decodeWords_call : decodeWords (0b0010000001#10 ++ op) imm = (decodeWordSrc op imm).map .callSrc := by
  have hw : (0b0010000001#10 ++ op : Word) = wordM8 0#1 0#1 .a (0#1 ++ 1#1 ++ op) := by
    ext i hi
    simp only [wordM8, BitVec.getElem_append]
    interval_cases i <;> first | rfl | (simp; done) | (simp; rfl)
  rw [hw]
  obtain ⟨h0, h1, h2, h3, h4, h5, h6, h7⟩ := wordM8_bits .a 0#1 0#1 (0#1 ++ 1#1 ++ op)
  obtain ⟨g1, g2, g3⟩ := low_bits8 op 0#1 1#1
  simp only [decodeWords, decodeOther8, decodeMulJump8, h0, h1, h2, h3, h4, h5, h6, h7, g1, g2, g3, wordM8_rr, wordM8_op]
  rfl

theorem decodeWords_ret : decodeWords 0x2005 imm = some .ret := rfl

theorem decodeWords_unassignedMul : decodeWords (0b001100000#9 ++ zp) imm = some (.unassignedMul zp) := by
  have hw : (0b001100000#9 ++ zp : Word) = wordM8 0#1 0#1 .b (0#1 ++ zp) := by
    ext i hi
    simp only [wordM8, BitVec.getElem_append]
    interval_cases i <;> first | rfl | (simp; done) | (simp; rfl)
  rw [hw]
  obtain ⟨h0, h1, h2, h3, h4, h5, h6, h7⟩ := wordM8_bits .b 0#1 0#1 (0#1 ++ zp)
  obtain ⟨g1, g2⟩ := zp_bits8 0#1 zp
  simp only [decodeWords, decodeOther8, decodeMulJump8, h0, h1, h2, h3, h4, h5, h6, h7, g1, g2, wordM8_rr, wordM8_zp]
  rfl

theorem decodeWords_jumpZp : decodeWords (0b000100000#9 ++ zp) imm = some (.jumpZp zp) := by
  have hw : (0b000100000#9 ++ zp : Word) = wordM16 0#1 0#1 .ba (0#1 ++ zp) := by
    ext i hi
    simp only [wordM16, BitVec.getElem_append]
    interval_cases i <;> first | rfl | (simp; done) | (simp; rfl)
  rw [hw]
  obtain ⟨h0, h1, h2, h3, h4, h5, h6, h7⟩ := wordM16_bits .ba 0#1 0#1 (0#1 ++ zp)
  obtain ⟨g1, g2⟩ := zp_bits8 0#1 zp
  simp only [decodeWords, decodeOther16, decodeMulJump16, h0, h1, h2, h3, h4, h5, h6, h7, g1, g2, wordM16_rr, wordM16_zp,
    if_true]
  rfl

end

/-! ### The operand codes of each role (R78 to R81) -/

/-- Decoding a memory form's code gives the form back, with the word at hand as its address if it has one. -/
theorem decodeMem_code {m : MemMode} {imm : Word} (h : m.wf = true) (hi : m.words = 2 → imm = m.immWord) :
    decodeMem m.code imm = some m := by
  cases m with
  | indexed base index => cases base <;> cases index <;> first | rfl | exact absurd h (by decide)
  | postInc ptr => cases ptr <;> rfl
  | preDec ptr => cases ptr <;> rfl
  | disp base imm2 =>
    have : imm2 = 0 ∨ imm2 = 1 ∨ imm2 = 2 ∨ imm2 = 3 := by clear h hi; revert imm2; decide
    cases base <;> rcases this with rfl | rfl | rfl | rfl <;> rfl
  | abs addr =>
    obtain rfl : imm = addr := hi rfl
    simp [decodeMem, MemMode.code]

/-- No memory form has the code of another operand. -/
theorem mem_code_ne {m : MemMode} (h : m.wf = true) : isByteReg m.code = false ∧ isWordReg m.code = false ∧
    m.code ≠ 0b000010 ∧ m.code ≠ 0b000001 ∧ m.code ≠ 0b000101 ∧ m.code ≠ 0b000111 := by
  cases m with
  | indexed base index => cases base <;> cases index <;> decide
  | postInc ptr => cases ptr <;> decide
  | preDec ptr => cases ptr <;> decide
  | disp base imm2 => cases base <;> (revert imm2; decide)
  | abs addr => exact ⟨by simp [MemMode.code, isByteReg], by simp [MemMode.code, isWordReg], by simp [MemMode.code], by simp [MemMode.code], by simp [MemMode.code], by simp [MemMode.code]⟩

theorem decodeByteSrc_code {src : ByteSrc} {imm : Word} (h : src.wf = true) (hi : src.words = 2 → imm = src.immWord) :
    decodeByteSrc src.code imm = some src := by
  cases src with
  | mem m =>
    obtain ⟨h1, h2, h3, h4, h5, h6⟩ := mem_code_ne h
    simp only [decodeByteSrc, ByteSrc.code, h1, h3, h4, h5, h6, decodeMem_code h hi]
    rfl
  | reg r => cases r <;> rfl
  | imm v =>
    obtain rfl : imm = v := hi rfl
    simp [decodeByteSrc, ByteSrc.code, isByteReg]
  | flags | sp | pop => rfl

theorem decodeWordSrc_code {src : WordSrc} {imm : Word} (h : src.wf = true) (hi : src.words = 2 → imm = src.immWord) :
    decodeWordSrc src.code imm = some src := by
  cases src with
  | mem m =>
    obtain ⟨h1, h2, h3, h4, h5, h6⟩ := mem_code_ne h
    simp only [decodeWordSrc, WordSrc.code, h1, h2, h4, h5, h6, decodeMem_code h hi]
    rfl
  | reg k => cases k <;> rfl
  | ext r => cases r <;> rfl
  | imm v =>
    obtain rfl : imm = v := hi rfl
    simp [decodeWordSrc, WordSrc.code, isByteReg, isWordReg]
  | sp | pop => rfl

theorem decodeByteDest_code {dst : ByteDest} {imm : Word} (h : dst.wf = true) (hi : dst.words = 2 → imm = dst.immWord) :
    decodeByteDest dst.code imm = some dst := by
  cases dst with
  | mem m =>
    obtain ⟨h1, h2, h3, h4, h5, h6⟩ := mem_code_ne h
    simp only [decodeByteDest, ByteDest.code, h1, h3, h5, h6, decodeMem_code h hi]
    rfl
  | reg r => cases r <;> rfl
  | flags | sp | stack => rfl

theorem decodeWordDest_code {dst : WordDest} {imm : Word} (h : dst.wf = true) (hi : dst.words = 2 → imm = dst.immWord) :
    decodeWordDest dst.code imm = some dst := by
  cases dst with
  | mem m =>
    obtain ⟨h1, h2, h3, h4, h5, h6⟩ := mem_code_ne h
    simp only [decodeWordDest, WordDest.code, h2, h5, h6, decodeMem_code h hi]
    rfl
  | reg k => cases k <;> rfl
  | sp | stack => rfl

theorem decodeSrc8_code {src : Src8} {imm : Word} (h : src.wf = true) (hi : src.words = 2 → imm = src.immWord) :
    decodeSrc8 src.code imm = some src := by
  cases src with
  | mem m =>
    obtain ⟨h1, h2, h3, h4, h5, h6⟩ := mem_code_ne h
    simp only [decodeSrc8, Src8.code, h1, h4, h5, h6, decodeMem_code h hi]
    rfl
  | reg r => cases r <;> rfl
  | imm v =>
    obtain rfl : imm = v := hi rfl
    simp [decodeSrc8, Src8.code, isByteReg]
  | sp | pop => rfl

/-! ### What decoding a code tells about it -/

/-- A decoded memory form is well formed, has the code it was read from, and holds the word at hand if it is two words long. -/
theorem decodeMem_some {op : BitVec 6} {imm : Word} {m : MemMode} (h : decodeMem op imm = some m) :
    m.wf = true ∧ m.code = op ∧ (m.words = 1 ∨ m.words = 2 ∧ m.immWord = imm) := by
  unfold decodeMem at h
  split at h
  · next h5 =>
    split at h
    · next hrr =>
      split at h
      · next h0 => cases h; refine ⟨rfl, ?_, .inl rfl⟩; clear imm; revert op; decide
      · next h0 => cases h; refine ⟨rfl, ?_, .inl rfl⟩; clear imm; revert op; decide
    · next hrr => cases h; refine ⟨?_, ?_, .inl rfl⟩ <;> (clear imm; revert op; decide)
  · next h5 =>
    split at h
    · next h4 => cases h; refine ⟨rfl, ?_, .inl rfl⟩; clear imm; revert op; decide
    · split at h
      · next h4 => cases h; exact ⟨rfl, h4.symm, .inr ⟨rfl, rfl⟩⟩
      · cases h

theorem byteReg_code {op : BitVec 6} (h : isByteReg op = true) : 0b001#3 ++ (reg8OfNum
    (op.extractLsb' 0 3)).num = op := by
  revert op; decide

theorem wordReg_code {op : BitVec 6} (h : isWordReg op = true) :
    0b000#3 ++ (reg16OfNum (op.extractLsb' 1 2)).num ++ 0#1 = op := by
  revert op; decide

theorem decodeByteSrc_some {op : BitVec 6} {imm : Word} {src : ByteSrc} (h : decodeByteSrc op imm = some src) :
    src.wf = true ∧ src.code = op ∧ (src.words = 1 ∨ src.words = 2 ∧ src.immWord = imm) := by
  unfold decodeByteSrc at h
  repeat' split at h
  all_goals first
    | (cases h; first
        | exact ⟨rfl, byteReg_code ‹_›, .inl rfl⟩
        | exact ⟨rfl, Eq.symm ‹_›, .inl rfl⟩
        | exact ⟨rfl, Eq.symm ‹_›, .inr ⟨rfl, rfl⟩⟩)
    | (obtain ⟨m, hm, rfl⟩ := Option.map_eq_some_iff.mp h; exact decodeMem_some hm)

theorem decodeWordSrc_some {op : BitVec 6} {imm : Word} {src : WordSrc} (h : decodeWordSrc op imm = some src) :
    src.wf = true ∧ src.code = op ∧ (src.words = 1 ∨ src.words = 2 ∧ src.immWord = imm) := by
  unfold decodeWordSrc at h
  repeat' split at h
  all_goals first
    | (cases h; first
        | exact ⟨rfl, byteReg_code ‹_›, .inl rfl⟩
        | exact ⟨rfl, wordReg_code ‹_›, .inl rfl⟩
        | exact ⟨rfl, Eq.symm ‹_›, .inl rfl⟩
        | exact ⟨rfl, Eq.symm ‹_›, .inr ⟨rfl, rfl⟩⟩)
    | (obtain ⟨m, hm, rfl⟩ := Option.map_eq_some_iff.mp h; exact decodeMem_some hm)

theorem decodeByteDest_some {op : BitVec 6} {imm : Word} {dst : ByteDest} (h : decodeByteDest op imm = some dst) :
    dst.wf = true ∧ dst.code = op ∧ (dst.words = 1 ∨ dst.words = 2 ∧ dst.immWord = imm) ∧
      (isByteReg op = false → dst.notGeneral = true) := by
  unfold decodeByteDest at h
  repeat' split at h
  all_goals first
    | (cases h; first
        | exact ⟨rfl, byteReg_code ‹_›, .inl rfl, fun e => by simp_all⟩
        | exact ⟨rfl, Eq.symm ‹_›, .inl rfl, fun _ => rfl⟩)
    | (obtain ⟨m, hm, rfl⟩ := Option.map_eq_some_iff.mp h
       obtain ⟨h1, h2, h3⟩ := decodeMem_some hm
       exact ⟨h1, h2, h3, fun _ => rfl⟩)

theorem decodeWordDest_some {op : BitVec 6} {imm : Word} {dst : WordDest} (h : decodeWordDest op imm = some dst) :
    dst.wf = true ∧ dst.code = op ∧ (dst.words = 1 ∨ dst.words = 2 ∧ dst.immWord = imm) ∧
      (isWordReg op = false → dst.notGeneral = true) := by
  unfold decodeWordDest at h
  repeat' split at h
  all_goals first
    | (cases h; first
        | exact ⟨rfl, wordReg_code ‹_›, .inl rfl, fun e => by simp_all⟩
        | exact ⟨rfl, Eq.symm ‹_›, .inl rfl, fun _ => rfl⟩)
    | (obtain ⟨m, hm, rfl⟩ := Option.map_eq_some_iff.mp h
       obtain ⟨h1, h2, h3⟩ := decodeMem_some hm
       exact ⟨h1, h2, h3, fun _ => rfl⟩)

theorem decodeSrc8_some {op : BitVec 6} {imm : Word} {src : Src8} (h : decodeSrc8 op imm = some src) :
    src.wf = true ∧ src.code = op ∧ (src.words = 1 ∨ src.words = 2 ∧ src.immWord = imm) := by
  unfold decodeSrc8 at h
  repeat' split at h
  all_goals first
    | (cases h; first
        | exact ⟨rfl, byteReg_code ‹_›, .inl rfl⟩
        | exact ⟨rfl, Eq.symm ‹_›, .inl rfl⟩
        | exact ⟨rfl, Eq.symm ‹_›, .inr ⟨rfl, rfl⟩⟩)
    | (obtain ⟨m, hm, rfl⟩ := Option.map_eq_some_iff.mp h; exact decodeMem_some hm)

end Sys2Proof
end

