-- ==== Sys2Proof/Laws/Encode.lean ====
section
/-! SUPPORT. Lemmas that join the encoder's codes with the decoder's tests, and the lengths of instructions. -/

namespace Sys2Proof

/-- The code of a byte register is one (R79). -/
theorem isByteReg_code (r : Reg8) : isByteReg (0b001#3 ++ r.num) = true := by
  cases r <;> rfl

/-- The code of a pair is one (R79). -/
theorem isWordReg_code (k : Reg16) : isWordReg (0b000#3 ++ k.num ++ 0#1) = true := by
  cases k <;> rfl

/-- The register that such a code names. -/
theorem reg8OfNum_code (r : Reg8) : reg8OfNum ((0b001#3 ++ r.num).extractLsb' 0 3) = r := by
  cases r <;> rfl

/-- The pair that such a code names. -/
theorem reg16OfNum_code (k : Reg16) : reg16OfNum ((0b000#3 ++ k.num ++ 0#1).extractLsb' 1 2) = k := by
  cases k <;> rfl

/-- A 4-bit constant before a 4-bit field, as two 2-bit constants. -/
theorem append_split (c : BitVec 4) (h : BitVec 2) (x : BitVec 2) (e : h ++ x = c := by decide) (n : BitVec 4) :
    (c ++ n : BitVec 8) = h ++ (x ++ n) := by
  subst e; revert h x n; decide

/-- The `not` word ends as a `mov dest, reg` word with a register code would (R68). -/
theorem notCode8_split (r : Reg8) : (0b10001#5 ++ r.num : BitVec 8) = 0b10#2 ++ (0b001#3 ++ r.num) := by
  cases r <;> rfl

/-- As `notCode8_split`, for a pair. -/
theorem notCode16_split (r : Reg16) : (0b10000#5 ++ r.num ++ 0#1 : BitVec 8) = 0b10#2 ++ (0b000#3 ++ r.num ++ 0#1) := by
  cases r <;> rfl

/-- The 8-bit `shift reg, imm4` that two operation bits and a count denote (R85). -/
theorem shift8RegImm_append (r : Reg8) (x : BitVec 2) (n : BitVec 4) :
    shift8RegImm (x ++ n) r = (match x.toNat with
  | 0 => .ror8RegImm r n
  | 1 => .sar8RegImm r n
  | 2 => .shr8RegImm r n
  | _ => .shl8RegImm r n) := by
  have h1 : (x ++ n).extractLsb' 4 2 = x := by revert x n; decide
  have h2 : (x ++ n).extractLsb' 0 4 = n := by revert x n; decide
  simp only [shift8RegImm, h1, h2] <;> rfl

/-- As `shift8RegImm_append`, 16 bit. -/
theorem shift16RegImm_append (r : Reg16) (x : BitVec 2) (n : BitVec 4) :
    shift16RegImm (x ++ n) r = (match x.toNat with
  | 0 => .ror16RegImm r n
  | 1 => .sar16RegImm r n
  | 2 => .shr16RegImm r n
  | _ => .shl16RegImm r n) := by
  have h1 : (x ++ n).extractLsb' 4 2 = x := by revert x n; decide
  have h2 : (x ++ n).extractLsb' 0 4 = n := by revert x n; decide
  simp only [shift16RegImm, h1, h2] <;> rfl

/-- A destination that is no register has no register code (R68). -/
theorem isByteReg_of_notGeneral {d : ByteDest} (h : d.notGeneral = true)
    (w : d.wf = true) : isByteReg d.code = false := by
  cases d with
  | reg r => cases h
  | mem m => exact (mem_code_ne w).1
  | _ => rfl

/-- As `isByteReg_of_notGeneral`, for pairs. -/
theorem isWordReg_of_notGeneral {d : WordDest} (h : d.notGeneral = true)
    (w : d.wf = true) : isWordReg d.code = false := by
  cases d with
  | reg r => cases h
  | mem m => exact (mem_code_ne w).2.1
  | _ => rfl

/-- A source that is not `[pop]` has another code than `[pop]` (R87). -/
theorem code_ne_pop {s : WordSrc} (h : s.notPop = true) (w : s.wf = true) : s.code ≠ 0b000101 := by
  cases s with
  | reg r => cases r <;> decide
  | ext r => cases r <;> decide
  | mem m => exact (mem_code_ne w).2.2.2.2.1
  | pop => cases h
  | imm v => simp [WordSrc.code]
  | sp => decide

/-- An instruction has one word or two (R60, R62). -/
theorem words_cases (i : Instr) : i.words = 1 ∨ i.words = 2 := by
  have hm : ∀ m : MemMode, m.words = 1 ∨ m.words = 2 := by intro m; cases m <;> simp [MemMode.words]
  have h1 : ∀ s : ByteSrc, s.words = 1 ∨ s.words = 2 := by intro m; cases m <;> simp [ByteSrc.words, hm]
  have h2 : ∀ s : WordSrc, s.words = 1 ∨ s.words = 2 := by intro m; cases m <;> simp [WordSrc.words, hm]
  have h3 : ∀ s : ByteDest, s.words = 1 ∨ s.words = 2 := by intro m; cases m <;> simp [ByteDest.words, hm]
  have h4 : ∀ s : WordDest, s.words = 1 ∨ s.words = 2 := by intro m; cases m <;> simp [WordDest.words, hm]
  have h5 : ∀ s : Src8, s.words = 1 ∨ s.words = 2 := by intro m; cases m <;> simp [Src8.words, hm]
  cases i <;> first | exact .inl rfl | exact h1 _ | exact h2 _ | exact h3 _ | exact h4 _ | exact h5 _

end Sys2Proof
end

