-- ==== Sys2Proof/Laws/PerInstr.lean ====
section
/-! SUPPORT. What holds of every instruction, one lemma per constructor: the family `RoundTrip` of LAWS.json. -/

open Sys2Proof

/-- An instruction has one word or two, and where it is well formed its words decode to it: its first word, with its
second where it has one and with any word where it has none. -/
def Sys2Proof.Laws.RoundTrip.Statement (i : Instr) : Prop :=
  (i.words = 1 ∨ i.words = 2) ∧
    ∀ xx : Word, i.wf = true → (i.words = 2 → xx = encodeImm i) → decodeWords (encodeWord i) xx = some i

namespace Sys2Proof.Laws.RoundTrip

theorem add8RegSrc (r : Reg8) (src : ByteSrc) : Statement (.add8RegSrc r src) := by
  refine ⟨words_cases _, fun xx h hi => ?_⟩
  show decodeWords (wordA8 0b000#3 r 0b00#2 src.code) xx = _
  rw [decodeWords_regSrc8, decodeByteSrc_code h hi]; rfl

theorem sub8RegSrc (r : Reg8) (src : ByteSrc) : Statement (.sub8RegSrc r src) := by
  refine ⟨words_cases _, fun xx h hi => ?_⟩
  show decodeWords (wordA8 0b001#3 r 0b00#2 src.code) xx = _
  rw [decodeWords_regSrc8, decodeByteSrc_code h hi]; rfl

theorem adc8RegSrc (r : Reg8) (src : ByteSrc) : Statement (.adc8RegSrc r src) := by
  refine ⟨words_cases _, fun xx h hi => ?_⟩
  show decodeWords (wordA8 0b010#3 r 0b00#2 src.code) xx = _
  rw [decodeWords_regSrc8, decodeByteSrc_code h hi]; rfl

theorem sbc8RegSrc (r : Reg8) (src : ByteSrc) : Statement (.sbc8RegSrc r src) := by
  refine ⟨words_cases _, fun xx h hi => ?_⟩
  show decodeWords (wordA8 0b011#3 r 0b00#2 src.code) xx = _
  rw [decodeWords_regSrc8, decodeByteSrc_code h hi]; rfl

theorem and8RegSrc (r : Reg8) (src : ByteSrc) : Statement (.and8RegSrc r src) := by
  refine ⟨words_cases _, fun xx h hi => ?_⟩
  show decodeWords (wordA8 0b100#3 r 0b00#2 src.code) xx = _
  rw [decodeWords_regSrc8, decodeByteSrc_code h hi]; rfl

theorem or8RegSrc (r : Reg8) (src : ByteSrc) : Statement (.or8RegSrc r src) := by
  refine ⟨words_cases _, fun xx h hi => ?_⟩
  show decodeWords (wordA8 0b101#3 r 0b00#2 src.code) xx = _
  rw [decodeWords_regSrc8, decodeByteSrc_code h hi]; rfl

theorem xor8RegSrc (r : Reg8) (src : ByteSrc) : Statement (.xor8RegSrc r src) := by
  refine ⟨words_cases _, fun xx h hi => ?_⟩
  show decodeWords (wordA8 0b110#3 r 0b00#2 src.code) xx = _
  rw [decodeWords_regSrc8, decodeByteSrc_code h hi]; rfl

theorem cmp8RegSrc (r : Reg8) (src : ByteSrc) : Statement (.cmp8RegSrc r src) := by
  refine ⟨words_cases _, fun xx h hi => ?_⟩
  show decodeWords (wordA8 0b111#3 r 0b00#2 src.code) xx = _
  rw [decodeWords_regSrc8, decodeByteSrc_code h hi]; rfl

theorem add8RegImm (r : Reg8) (imm : BitVec 6) : Statement (.add8RegImm r imm) := by
  refine ⟨words_cases _, fun xx _ _ => ?_⟩
  show decodeWords (wordA8 0b000#3 r 0b01#2 imm) xx = _
  rw [decodeWords_regImm8]; rfl

theorem revsub8RegImm (r : Reg8) (imm : BitVec 6) : Statement (.revsub8RegImm r imm) := by
  refine ⟨words_cases _, fun xx _ _ => ?_⟩
  show decodeWords (wordA8 0b001#3 r 0b01#2 imm) xx = _
  rw [decodeWords_regImm8]; rfl

theorem adc8RegImm (r : Reg8) (imm : BitVec 6) : Statement (.adc8RegImm r imm) := by
  refine ⟨words_cases _, fun xx _ _ => ?_⟩
  show decodeWords (wordA8 0b010#3 r 0b01#2 imm) xx = _
  rw [decodeWords_regImm8]; rfl

theorem revsbc8RegImm (r : Reg8) (imm : BitVec 6) : Statement (.revsbc8RegImm r imm) := by
  refine ⟨words_cases _, fun xx _ _ => ?_⟩
  show decodeWords (wordA8 0b011#3 r 0b01#2 imm) xx = _
  rw [decodeWords_regImm8]; rfl

theorem and8RegImm (r : Reg8) (imm : BitVec 6) : Statement (.and8RegImm r imm) := by
  refine ⟨words_cases _, fun xx _ _ => ?_⟩
  show decodeWords (wordA8 0b100#3 r 0b01#2 imm) xx = _
  rw [decodeWords_regImm8]; rfl

theorem or8RegImm (r : Reg8) (imm : BitVec 6) : Statement (.or8RegImm r imm) := by
  refine ⟨words_cases _, fun xx _ _ => ?_⟩
  show decodeWords (wordA8 0b101#3 r 0b01#2 imm) xx = _
  rw [decodeWords_regImm8]; rfl

theorem xor8RegImm (r : Reg8) (imm : BitVec 6) : Statement (.xor8RegImm r imm) := by
  refine ⟨words_cases _, fun xx _ _ => ?_⟩
  show decodeWords (wordA8 0b110#3 r 0b01#2 imm) xx = _
  rw [decodeWords_regImm8]; rfl

theorem cmp8RegImm (r : Reg8) (imm : BitVec 6) : Statement (.cmp8RegImm r imm) := by
  refine ⟨words_cases _, fun xx _ _ => ?_⟩
  show decodeWords (wordA8 0b111#3 r 0b01#2 imm) xx = _
  rw [decodeWords_regImm8]; rfl

theorem test8RegSrc (r : Reg8) (src : ByteSrc) : Statement (.test8RegSrc r src) := by
  refine ⟨words_cases _, fun xx h hi => ?_⟩
  show decodeWords (wordA8 0b111#3 r 0b10#2 src.code) xx = _
  rw [decodeWords_destReg8, if_pos (by decide), decodeByteSrc_code h hi]; rfl

theorem neg8RegReg (r1 : Reg8) (r2 : Reg8) : Statement (.neg8RegReg r1 r2) := by
  refine ⟨words_cases _, fun xx _ _ => ?_⟩
  show decodeWords (wordA8 0b000#3 r2 0b10#2 (0b001#3 ++ r1.num)) xx = _
  rw [decodeWords_destReg8, if_neg (by decide), isByteReg_code, reg8OfNum_code]; rfl

theorem revsub8RegReg (r1 : Reg8) (r2 : Reg8) : Statement (.revsub8RegReg r1 r2) := by
  refine ⟨words_cases _, fun xx _ _ => ?_⟩
  show decodeWords (wordA8 0b001#3 r2 0b10#2 (0b001#3 ++ r1.num)) xx = _
  rw [decodeWords_destReg8, if_neg (by decide), isByteReg_code, reg8OfNum_code]; rfl

theorem negc8RegReg (r1 : Reg8) (r2 : Reg8) : Statement (.negc8RegReg r1 r2) := by
  refine ⟨words_cases _, fun xx _ _ => ?_⟩
  show decodeWords (wordA8 0b010#3 r2 0b10#2 (0b001#3 ++ r1.num)) xx = _
  rw [decodeWords_destReg8, if_neg (by decide), isByteReg_code, reg8OfNum_code]; rfl

theorem revsbc8RegReg (r1 : Reg8) (r2 : Reg8) : Statement (.revsbc8RegReg r1 r2) := by
  refine ⟨words_cases _, fun xx _ _ => ?_⟩
  show decodeWords (wordA8 0b011#3 r2 0b10#2 (0b001#3 ++ r1.num)) xx = _
  rw [decodeWords_destReg8, if_neg (by decide), isByteReg_code, reg8OfNum_code]; rfl

theorem andNot8RegReg (r1 : Reg8) (r2 : Reg8) : Statement (.andNot8RegReg r1 r2) := by
  refine ⟨words_cases _, fun xx _ _ => ?_⟩
  show decodeWords (wordA8 0b100#3 r2 0b10#2 (0b001#3 ++ r1.num)) xx = _
  rw [decodeWords_destReg8, if_neg (by decide), isByteReg_code, reg8OfNum_code]; rfl

theorem orNot8RegReg (r1 : Reg8) (r2 : Reg8) : Statement (.orNot8RegReg r1 r2) := by
  refine ⟨words_cases _, fun xx _ _ => ?_⟩
  show decodeWords (wordA8 0b101#3 r2 0b10#2 (0b001#3 ++ r1.num)) xx = _
  rw [decodeWords_destReg8, if_neg (by decide), isByteReg_code, reg8OfNum_code]; rfl

theorem xorNot8RegReg (r1 : Reg8) (r2 : Reg8) : Statement (.xorNot8RegReg r1 r2) := by
  refine ⟨words_cases _, fun xx _ _ => ?_⟩
  show decodeWords (wordA8 0b110#3 r2 0b10#2 (0b001#3 ++ r1.num)) xx = _
  rw [decodeWords_destReg8, if_neg (by decide), isByteReg_code, reg8OfNum_code]; rfl

theorem ror8RegSrc8 (r : Reg8) (src : Src8) : Statement (.ror8RegSrc8 r src) := by
  refine ⟨words_cases _, fun xx h hi => ?_⟩
  show decodeWords (wordA8 0b000#3 r 0b11#2 src.code) xx = _
  rw [decodeWords_shift8]
  simp [shift8RegSrc8, decodeSrc8_code h hi]

theorem sar8RegSrc8 (r : Reg8) (src : Src8) : Statement (.sar8RegSrc8 r src) := by
  refine ⟨words_cases _, fun xx h hi => ?_⟩
  show decodeWords (wordA8 0b010#3 r 0b11#2 src.code) xx = _
  rw [decodeWords_shift8]
  simp [shift8RegSrc8, decodeSrc8_code h hi]

theorem shr8RegSrc8 (r : Reg8) (src : Src8) : Statement (.shr8RegSrc8 r src) := by
  refine ⟨words_cases _, fun xx h hi => ?_⟩
  show decodeWords (wordA8 0b100#3 r 0b11#2 src.code) xx = _
  rw [decodeWords_shift8]
  simp [shift8RegSrc8, decodeSrc8_code h hi]

theorem shl8RegSrc8 (r : Reg8) (src : Src8) : Statement (.shl8RegSrc8 r src) := by
  refine ⟨words_cases _, fun xx h hi => ?_⟩
  show decodeWords (wordA8 0b110#3 r 0b11#2 src.code) xx = _
  rw [decodeWords_shift8]
  simp [shift8RegSrc8, decodeSrc8_code h hi]

theorem rol8RegSrc8 (r : Reg8) (src : Src8) : Statement (.rol8RegSrc8 r src) := by
  refine ⟨words_cases _, fun xx h hi => ?_⟩
  show decodeWords (wordA8 0b111#3 r 0b11#2 src.code) xx = _
  rw [decodeWords_shift8]
  simp [shift8RegSrc8, decodeSrc8_code h hi]

theorem unassignedShift8Op1 (r : Reg8) (code : BitVec 6) : Statement (.unassignedShift8Op1 r code) := by
  refine ⟨words_cases _, fun xx _ _ => ?_⟩
  show decodeWords (wordA8 0b001#3 r 0b11#2 code) xx = _
  rw [decodeWords_shift8]
  rfl

theorem unassignedShift8Op3 (r : Reg8) (code : BitVec 6) : Statement (.unassignedShift8Op3 r code) := by
  refine ⟨words_cases _, fun xx _ _ => ?_⟩
  show decodeWords (wordA8 0b011#3 r 0b11#2 code) xx = _
  rw [decodeWords_shift8]
  rfl

theorem unassignedShift8Op5 (r : Reg8) (code : BitVec 6) : Statement (.unassignedShift8Op5 r code) := by
  refine ⟨words_cases _, fun xx _ _ => ?_⟩
  show decodeWords (wordA8 0b101#3 r 0b11#2 code) xx = _
  rw [decodeWords_shift8]
  rfl

theorem add8RegZp (r : Reg8) (zp : BitVec 7) : Statement (.add8RegZp r zp) := by
  refine ⟨words_cases _, fun xx _ _ => ?_⟩
  show decodeWords (wordA8Zp 0b000#3 r 0b0#1 zp) xx = _
  rw [decodeWords_regZp8]; rfl

theorem sub8RegZp (r : Reg8) (zp : BitVec 7) : Statement (.sub8RegZp r zp) := by
  refine ⟨words_cases _, fun xx _ _ => ?_⟩
  show decodeWords (wordA8Zp 0b001#3 r 0b0#1 zp) xx = _
  rw [decodeWords_regZp8]; rfl

theorem adc8RegZp (r : Reg8) (zp : BitVec 7) : Statement (.adc8RegZp r zp) := by
  refine ⟨words_cases _, fun xx _ _ => ?_⟩
  show decodeWords (wordA8Zp 0b010#3 r 0b0#1 zp) xx = _
  rw [decodeWords_regZp8]; rfl

theorem sbc8RegZp (r : Reg8) (zp : BitVec 7) : Statement (.sbc8RegZp r zp) := by
  refine ⟨words_cases _, fun xx _ _ => ?_⟩
  show decodeWords (wordA8Zp 0b011#3 r 0b0#1 zp) xx = _
  rw [decodeWords_regZp8]; rfl

theorem and8RegZp (r : Reg8) (zp : BitVec 7) : Statement (.and8RegZp r zp) := by
  refine ⟨words_cases _, fun xx _ _ => ?_⟩
  show decodeWords (wordA8Zp 0b100#3 r 0b0#1 zp) xx = _
  rw [decodeWords_regZp8]; rfl

theorem or8RegZp (r : Reg8) (zp : BitVec 7) : Statement (.or8RegZp r zp) := by
  refine ⟨words_cases _, fun xx _ _ => ?_⟩
  show decodeWords (wordA8Zp 0b101#3 r 0b0#1 zp) xx = _
  rw [decodeWords_regZp8]; rfl

theorem xor8RegZp (r : Reg8) (zp : BitVec 7) : Statement (.xor8RegZp r zp) := by
  refine ⟨words_cases _, fun xx _ _ => ?_⟩
  show decodeWords (wordA8Zp 0b110#3 r 0b0#1 zp) xx = _
  rw [decodeWords_regZp8]; rfl

theorem cmp8RegZp (r : Reg8) (zp : BitVec 7) : Statement (.cmp8RegZp r zp) := by
  refine ⟨words_cases _, fun xx _ _ => ?_⟩
  show decodeWords (wordA8Zp 0b111#3 r 0b0#1 zp) xx = _
  rw [decodeWords_regZp8]; rfl

theorem add8ZpReg (zp : BitVec 7) (r : Reg8) : Statement (.add8ZpReg zp r) := by
  refine ⟨words_cases _, fun xx _ _ => ?_⟩
  show decodeWords (wordA8Zp 0b000#3 r 0b1#1 zp) xx = _
  rw [decodeWords_zpReg8]; rfl

theorem sub8ZpReg (zp : BitVec 7) (r : Reg8) : Statement (.sub8ZpReg zp r) := by
  refine ⟨words_cases _, fun xx _ _ => ?_⟩
  show decodeWords (wordA8Zp 0b001#3 r 0b1#1 zp) xx = _
  rw [decodeWords_zpReg8]; rfl

theorem adc8ZpReg (zp : BitVec 7) (r : Reg8) : Statement (.adc8ZpReg zp r) := by
  refine ⟨words_cases _, fun xx _ _ => ?_⟩
  show decodeWords (wordA8Zp 0b010#3 r 0b1#1 zp) xx = _
  rw [decodeWords_zpReg8]; rfl

theorem sbc8ZpReg (zp : BitVec 7) (r : Reg8) : Statement (.sbc8ZpReg zp r) := by
  refine ⟨words_cases _, fun xx _ _ => ?_⟩
  show decodeWords (wordA8Zp 0b011#3 r 0b1#1 zp) xx = _
  rw [decodeWords_zpReg8]; rfl

theorem and8ZpReg (zp : BitVec 7) (r : Reg8) : Statement (.and8ZpReg zp r) := by
  refine ⟨words_cases _, fun xx _ _ => ?_⟩
  show decodeWords (wordA8Zp 0b100#3 r 0b1#1 zp) xx = _
  rw [decodeWords_zpReg8]; rfl

theorem or8ZpReg (zp : BitVec 7) (r : Reg8) : Statement (.or8ZpReg zp r) := by
  refine ⟨words_cases _, fun xx _ _ => ?_⟩
  show decodeWords (wordA8Zp 0b101#3 r 0b1#1 zp) xx = _
  rw [decodeWords_zpReg8]; rfl

theorem xor8ZpReg (zp : BitVec 7) (r : Reg8) : Statement (.xor8ZpReg zp r) := by
  refine ⟨words_cases _, fun xx _ _ => ?_⟩
  show decodeWords (wordA8Zp 0b110#3 r 0b1#1 zp) xx = _
  rw [decodeWords_zpReg8]; rfl

theorem test8RegZp (r : Reg8) (zp : BitVec 7) : Statement (.test8RegZp r zp) := by
  refine ⟨words_cases _, fun xx _ _ => ?_⟩
  show decodeWords (wordA8Zp 0b111#3 r 0b1#1 zp) xx = _
  rw [decodeWords_zpReg8]; rfl

theorem add8DestReg (dst : ByteDest) (r : Reg8) : Statement (.add8DestReg dst r) := by
  refine ⟨words_cases _, fun xx h hi => ?_⟩
  show decodeWords (wordA8 0b000#3 r 0b10#2 dst.code) xx = _
  obtain ⟨h1, h2⟩ := (Bool.and_eq_true _ _).mp h
  rw [decodeWords_destReg8, if_neg (by decide), isByteReg_of_notGeneral h2 h1, decodeByteDest_code h1 hi]; rfl

theorem sub8DestReg (dst : ByteDest) (r : Reg8) : Statement (.sub8DestReg dst r) := by
  refine ⟨words_cases _, fun xx h hi => ?_⟩
  show decodeWords (wordA8 0b001#3 r 0b10#2 dst.code) xx = _
  obtain ⟨h1, h2⟩ := (Bool.and_eq_true _ _).mp h
  rw [decodeWords_destReg8, if_neg (by decide), isByteReg_of_notGeneral h2 h1, decodeByteDest_code h1 hi]; rfl

theorem adc8DestReg (dst : ByteDest) (r : Reg8) : Statement (.adc8DestReg dst r) := by
  refine ⟨words_cases _, fun xx h hi => ?_⟩
  show decodeWords (wordA8 0b010#3 r 0b10#2 dst.code) xx = _
  obtain ⟨h1, h2⟩ := (Bool.and_eq_true _ _).mp h
  rw [decodeWords_destReg8, if_neg (by decide), isByteReg_of_notGeneral h2 h1, decodeByteDest_code h1 hi]; rfl

theorem sbc8DestReg (dst : ByteDest) (r : Reg8) : Statement (.sbc8DestReg dst r) := by
  refine ⟨words_cases _, fun xx h hi => ?_⟩
  show decodeWords (wordA8 0b011#3 r 0b10#2 dst.code) xx = _
  obtain ⟨h1, h2⟩ := (Bool.and_eq_true _ _).mp h
  rw [decodeWords_destReg8, if_neg (by decide), isByteReg_of_notGeneral h2 h1, decodeByteDest_code h1 hi]; rfl

theorem and8DestReg (dst : ByteDest) (r : Reg8) : Statement (.and8DestReg dst r) := by
  refine ⟨words_cases _, fun xx h hi => ?_⟩
  show decodeWords (wordA8 0b100#3 r 0b10#2 dst.code) xx = _
  obtain ⟨h1, h2⟩ := (Bool.and_eq_true _ _).mp h
  rw [decodeWords_destReg8, if_neg (by decide), isByteReg_of_notGeneral h2 h1, decodeByteDest_code h1 hi]; rfl

theorem or8DestReg (dst : ByteDest) (r : Reg8) : Statement (.or8DestReg dst r) := by
  refine ⟨words_cases _, fun xx h hi => ?_⟩
  show decodeWords (wordA8 0b101#3 r 0b10#2 dst.code) xx = _
  obtain ⟨h1, h2⟩ := (Bool.and_eq_true _ _).mp h
  rw [decodeWords_destReg8, if_neg (by decide), isByteReg_of_notGeneral h2 h1, decodeByteDest_code h1 hi]; rfl

theorem xor8DestReg (dst : ByteDest) (r : Reg8) : Statement (.xor8DestReg dst r) := by
  refine ⟨words_cases _, fun xx h hi => ?_⟩
  show decodeWords (wordA8 0b110#3 r 0b10#2 dst.code) xx = _
  obtain ⟨h1, h2⟩ := (Bool.and_eq_true _ _).mp h
  rw [decodeWords_destReg8, if_neg (by decide), isByteReg_of_notGeneral h2 h1, decodeByteDest_code h1 hi]; rfl

theorem add16RegSrc (r : Reg16) (src : WordSrc) : Statement (.add16RegSrc r src) := by
  refine ⟨words_cases _, fun xx h hi => ?_⟩
  show decodeWords (wordA16 0b000#3 r 0b00#2 src.code) xx = _
  rw [decodeWords_regSrc16, decodeWordSrc_code h hi]; rfl

theorem sub16RegSrc (r : Reg16) (src : WordSrc) : Statement (.sub16RegSrc r src) := by
  refine ⟨words_cases _, fun xx h hi => ?_⟩
  show decodeWords (wordA16 0b001#3 r 0b00#2 src.code) xx = _
  rw [decodeWords_regSrc16, decodeWordSrc_code h hi]; rfl

theorem adc16RegSrc (r : Reg16) (src : WordSrc) : Statement (.adc16RegSrc r src) := by
  refine ⟨words_cases _, fun xx h hi => ?_⟩
  show decodeWords (wordA16 0b010#3 r 0b00#2 src.code) xx = _
  rw [decodeWords_regSrc16, decodeWordSrc_code h hi]; rfl

theorem sbc16RegSrc (r : Reg16) (src : WordSrc) : Statement (.sbc16RegSrc r src) := by
  refine ⟨words_cases _, fun xx h hi => ?_⟩
  show decodeWords (wordA16 0b011#3 r 0b00#2 src.code) xx = _
  rw [decodeWords_regSrc16, decodeWordSrc_code h hi]; rfl

theorem and16RegSrc (r : Reg16) (src : WordSrc) : Statement (.and16RegSrc r src) := by
  refine ⟨words_cases _, fun xx h hi => ?_⟩
  show decodeWords (wordA16 0b100#3 r 0b00#2 src.code) xx = _
  rw [decodeWords_regSrc16, decodeWordSrc_code h hi]; rfl

theorem or16RegSrc (r : Reg16) (src : WordSrc) : Statement (.or16RegSrc r src) := by
  refine ⟨words_cases _, fun xx h hi => ?_⟩
  show decodeWords (wordA16 0b101#3 r 0b00#2 src.code) xx = _
  rw [decodeWords_regSrc16, decodeWordSrc_code h hi]; rfl

theorem xor16RegSrc (r : Reg16) (src : WordSrc) : Statement (.xor16RegSrc r src) := by
  refine ⟨words_cases _, fun xx h hi => ?_⟩
  show decodeWords (wordA16 0b110#3 r 0b00#2 src.code) xx = _
  rw [decodeWords_regSrc16, decodeWordSrc_code h hi]; rfl

theorem cmp16RegSrc (r : Reg16) (src : WordSrc) : Statement (.cmp16RegSrc r src) := by
  refine ⟨words_cases _, fun xx h hi => ?_⟩
  show decodeWords (wordA16 0b111#3 r 0b00#2 src.code) xx = _
  rw [decodeWords_regSrc16, decodeWordSrc_code h hi]; rfl

theorem add16RegImm (r : Reg16) (imm : BitVec 6) : Statement (.add16RegImm r imm) := by
  refine ⟨words_cases _, fun xx _ _ => ?_⟩
  show decodeWords (wordA16 0b000#3 r 0b01#2 imm) xx = _
  rw [decodeWords_regImm16]; rfl

theorem revsub16RegImm (r : Reg16) (imm : BitVec 6) : Statement (.revsub16RegImm r imm) := by
  refine ⟨words_cases _, fun xx _ _ => ?_⟩
  show decodeWords (wordA16 0b001#3 r 0b01#2 imm) xx = _
  rw [decodeWords_regImm16]; rfl

theorem adc16RegImm (r : Reg16) (imm : BitVec 6) : Statement (.adc16RegImm r imm) := by
  refine ⟨words_cases _, fun xx _ _ => ?_⟩
  show decodeWords (wordA16 0b010#3 r 0b01#2 imm) xx = _
  rw [decodeWords_regImm16]; rfl

theorem revsbc16RegImm (r : Reg16) (imm : BitVec 6) : Statement (.revsbc16RegImm r imm) := by
  refine ⟨words_cases _, fun xx _ _ => ?_⟩
  show decodeWords (wordA16 0b011#3 r 0b01#2 imm) xx = _
  rw [decodeWords_regImm16]; rfl

theorem and16RegImm (r : Reg16) (imm : BitVec 6) : Statement (.and16RegImm r imm) := by
  refine ⟨words_cases _, fun xx _ _ => ?_⟩
  show decodeWords (wordA16 0b100#3 r 0b01#2 imm) xx = _
  rw [decodeWords_regImm16]; rfl

theorem or16RegImm (r : Reg16) (imm : BitVec 6) : Statement (.or16RegImm r imm) := by
  refine ⟨words_cases _, fun xx _ _ => ?_⟩
  show decodeWords (wordA16 0b101#3 r 0b01#2 imm) xx = _
  rw [decodeWords_regImm16]; rfl

theorem xor16RegImm (r : Reg16) (imm : BitVec 6) : Statement (.xor16RegImm r imm) := by
  refine ⟨words_cases _, fun xx _ _ => ?_⟩
  show decodeWords (wordA16 0b110#3 r 0b01#2 imm) xx = _
  rw [decodeWords_regImm16]; rfl

theorem cmp16RegImm (r : Reg16) (imm : BitVec 6) : Statement (.cmp16RegImm r imm) := by
  refine ⟨words_cases _, fun xx _ _ => ?_⟩
  show decodeWords (wordA16 0b111#3 r 0b01#2 imm) xx = _
  rw [decodeWords_regImm16]; rfl

theorem test16RegSrc (r : Reg16) (src : WordSrc) : Statement (.test16RegSrc r src) := by
  refine ⟨words_cases _, fun xx h hi => ?_⟩
  show decodeWords (wordA16 0b111#3 r 0b10#2 src.code) xx = _
  rw [decodeWords_destReg16, if_pos (by decide), decodeWordSrc_code h hi]; rfl

theorem neg16RegReg (r1 : Reg16) (r2 : Reg16) : Statement (.neg16RegReg r1 r2) := by
  refine ⟨words_cases _, fun xx _ _ => ?_⟩
  show decodeWords (wordA16 0b000#3 r2 0b10#2 (0b000#3 ++ r1.num ++ 0#1)) xx = _
  rw [decodeWords_destReg16, if_neg (by decide), isWordReg_code, reg16OfNum_code]; rfl

theorem revsub16RegReg (r1 : Reg16) (r2 : Reg16) : Statement (.revsub16RegReg r1 r2) := by
  refine ⟨words_cases _, fun xx _ _ => ?_⟩
  show decodeWords (wordA16 0b001#3 r2 0b10#2 (0b000#3 ++ r1.num ++ 0#1)) xx = _
  rw [decodeWords_destReg16, if_neg (by decide), isWordReg_code, reg16OfNum_code]; rfl

theorem negc16RegReg (r1 : Reg16) (r2 : Reg16) : Statement (.negc16RegReg r1 r2) := by
  refine ⟨words_cases _, fun xx _ _ => ?_⟩
  show decodeWords (wordA16 0b010#3 r2 0b10#2 (0b000#3 ++ r1.num ++ 0#1)) xx = _
  rw [decodeWords_destReg16, if_neg (by decide), isWordReg_code, reg16OfNum_code]; rfl

theorem revsbc16RegReg (r1 : Reg16) (r2 : Reg16) : Statement (.revsbc16RegReg r1 r2) := by
  refine ⟨words_cases _, fun xx _ _ => ?_⟩
  show decodeWords (wordA16 0b011#3 r2 0b10#2 (0b000#3 ++ r1.num ++ 0#1)) xx = _
  rw [decodeWords_destReg16, if_neg (by decide), isWordReg_code, reg16OfNum_code]; rfl

theorem andNot16RegReg (r1 : Reg16) (r2 : Reg16) : Statement (.andNot16RegReg r1 r2) := by
  refine ⟨words_cases _, fun xx _ _ => ?_⟩
  show decodeWords (wordA16 0b100#3 r2 0b10#2 (0b000#3 ++ r1.num ++ 0#1)) xx = _
  rw [decodeWords_destReg16, if_neg (by decide), isWordReg_code, reg16OfNum_code]; rfl

theorem orNot16RegReg (r1 : Reg16) (r2 : Reg16) : Statement (.orNot16RegReg r1 r2) := by
  refine ⟨words_cases _, fun xx _ _ => ?_⟩
  show decodeWords (wordA16 0b101#3 r2 0b10#2 (0b000#3 ++ r1.num ++ 0#1)) xx = _
  rw [decodeWords_destReg16, if_neg (by decide), isWordReg_code, reg16OfNum_code]; rfl

theorem xorNot16RegReg (r1 : Reg16) (r2 : Reg16) : Statement (.xorNot16RegReg r1 r2) := by
  refine ⟨words_cases _, fun xx _ _ => ?_⟩
  show decodeWords (wordA16 0b110#3 r2 0b10#2 (0b000#3 ++ r1.num ++ 0#1)) xx = _
  rw [decodeWords_destReg16, if_neg (by decide), isWordReg_code, reg16OfNum_code]; rfl

theorem ror16RegSrc8 (r : Reg16) (src : Src8) : Statement (.ror16RegSrc8 r src) := by
  refine ⟨words_cases _, fun xx h hi => ?_⟩
  show decodeWords (wordA16 0b000#3 r 0b11#2 src.code) xx = _
  rw [decodeWords_shift16]
  simp [shift16RegSrc8, decodeSrc8_code h hi]

theorem sar16RegSrc8 (r : Reg16) (src : Src8) : Statement (.sar16RegSrc8 r src) := by
  refine ⟨words_cases _, fun xx h hi => ?_⟩
  show decodeWords (wordA16 0b010#3 r 0b11#2 src.code) xx = _
  rw [decodeWords_shift16]
  simp [shift16RegSrc8, decodeSrc8_code h hi]

theorem shr16RegSrc8 (r : Reg16) (src : Src8) : Statement (.shr16RegSrc8 r src) := by
  refine ⟨words_cases _, fun xx h hi => ?_⟩
  show decodeWords (wordA16 0b100#3 r 0b11#2 src.code) xx = _
  rw [decodeWords_shift16]
  simp [shift16RegSrc8, decodeSrc8_code h hi]

theorem shl16RegSrc8 (r : Reg16) (src : Src8) : Statement (.shl16RegSrc8 r src) := by
  refine ⟨words_cases _, fun xx h hi => ?_⟩
  show decodeWords (wordA16 0b110#3 r 0b11#2 src.code) xx = _
  rw [decodeWords_shift16]
  simp [shift16RegSrc8, decodeSrc8_code h hi]

theorem rol16RegSrc8 (r : Reg16) (src : Src8) : Statement (.rol16RegSrc8 r src) := by
  refine ⟨words_cases _, fun xx h hi => ?_⟩
  show decodeWords (wordA16 0b111#3 r 0b11#2 src.code) xx = _
  rw [decodeWords_shift16]
  simp [shift16RegSrc8, decodeSrc8_code h hi]

theorem unassignedShift16Op1 (r : Reg16) (code : BitVec 6) : Statement (.unassignedShift16Op1 r code) := by
  refine ⟨words_cases _, fun xx _ _ => ?_⟩
  show decodeWords (wordA16 0b001#3 r 0b11#2 code) xx = _
  rw [decodeWords_shift16]
  rfl

theorem unassignedShift16Op3 (r : Reg16) (code : BitVec 6) : Statement (.unassignedShift16Op3 r code) := by
  refine ⟨words_cases _, fun xx _ _ => ?_⟩
  show decodeWords (wordA16 0b011#3 r 0b11#2 code) xx = _
  rw [decodeWords_shift16]
  rfl

theorem unassignedShift16Op5 (r : Reg16) (code : BitVec 6) : Statement (.unassignedShift16Op5 r code) := by
  refine ⟨words_cases _, fun xx _ _ => ?_⟩
  show decodeWords (wordA16 0b101#3 r 0b11#2 code) xx = _
  rw [decodeWords_shift16]
  rfl

theorem add16RegZp (r : Reg16) (zp : BitVec 7) : Statement (.add16RegZp r zp) := by
  refine ⟨words_cases _, fun xx _ _ => ?_⟩
  show decodeWords (wordA16Zp 0b000#3 r 0b0#1 zp) xx = _
  rw [decodeWords_regZp16]; rfl

theorem sub16RegZp (r : Reg16) (zp : BitVec 7) : Statement (.sub16RegZp r zp) := by
  refine ⟨words_cases _, fun xx _ _ => ?_⟩
  show decodeWords (wordA16Zp 0b001#3 r 0b0#1 zp) xx = _
  rw [decodeWords_regZp16]; rfl

theorem adc16RegZp (r : Reg16) (zp : BitVec 7) : Statement (.adc16RegZp r zp) := by
  refine ⟨words_cases _, fun xx _ _ => ?_⟩
  show decodeWords (wordA16Zp 0b010#3 r 0b0#1 zp) xx = _
  rw [decodeWords_regZp16]; rfl

theorem sbc16RegZp (r : Reg16) (zp : BitVec 7) : Statement (.sbc16RegZp r zp) := by
  refine ⟨words_cases _, fun xx _ _ => ?_⟩
  show decodeWords (wordA16Zp 0b011#3 r 0b0#1 zp) xx = _
  rw [decodeWords_regZp16]; rfl

theorem and16RegZp (r : Reg16) (zp : BitVec 7) : Statement (.and16RegZp r zp) := by
  refine ⟨words_cases _, fun xx _ _ => ?_⟩
  show decodeWords (wordA16Zp 0b100#3 r 0b0#1 zp) xx = _
  rw [decodeWords_regZp16]; rfl

theorem or16RegZp (r : Reg16) (zp : BitVec 7) : Statement (.or16RegZp r zp) := by
  refine ⟨words_cases _, fun xx _ _ => ?_⟩
  show decodeWords (wordA16Zp 0b101#3 r 0b0#1 zp) xx = _
  rw [decodeWords_regZp16]; rfl

theorem xor16RegZp (r : Reg16) (zp : BitVec 7) : Statement (.xor16RegZp r zp) := by
  refine ⟨words_cases _, fun xx _ _ => ?_⟩
  show decodeWords (wordA16Zp 0b110#3 r 0b0#1 zp) xx = _
  rw [decodeWords_regZp16]; rfl

theorem cmp16RegZp (r : Reg16) (zp : BitVec 7) : Statement (.cmp16RegZp r zp) := by
  refine ⟨words_cases _, fun xx _ _ => ?_⟩
  show decodeWords (wordA16Zp 0b111#3 r 0b0#1 zp) xx = _
  rw [decodeWords_regZp16]; rfl

theorem add16ZpReg (zp : BitVec 7) (r : Reg16) : Statement (.add16ZpReg zp r) := by
  refine ⟨words_cases _, fun xx _ _ => ?_⟩
  show decodeWords (wordA16Zp 0b000#3 r 0b1#1 zp) xx = _
  rw [decodeWords_zpReg16]; rfl

theorem sub16ZpReg (zp : BitVec 7) (r : Reg16) : Statement (.sub16ZpReg zp r) := by
  refine ⟨words_cases _, fun xx _ _ => ?_⟩
  show decodeWords (wordA16Zp 0b001#3 r 0b1#1 zp) xx = _
  rw [decodeWords_zpReg16]; rfl

theorem adc16ZpReg (zp : BitVec 7) (r : Reg16) : Statement (.adc16ZpReg zp r) := by
  refine ⟨words_cases _, fun xx _ _ => ?_⟩
  show decodeWords (wordA16Zp 0b010#3 r 0b1#1 zp) xx = _
  rw [decodeWords_zpReg16]; rfl

theorem sbc16ZpReg (zp : BitVec 7) (r : Reg16) : Statement (.sbc16ZpReg zp r) := by
  refine ⟨words_cases _, fun xx _ _ => ?_⟩
  show decodeWords (wordA16Zp 0b011#3 r 0b1#1 zp) xx = _
  rw [decodeWords_zpReg16]; rfl

theorem and16ZpReg (zp : BitVec 7) (r : Reg16) : Statement (.and16ZpReg zp r) := by
  refine ⟨words_cases _, fun xx _ _ => ?_⟩
  show decodeWords (wordA16Zp 0b100#3 r 0b1#1 zp) xx = _
  rw [decodeWords_zpReg16]; rfl

theorem or16ZpReg (zp : BitVec 7) (r : Reg16) : Statement (.or16ZpReg zp r) := by
  refine ⟨words_cases _, fun xx _ _ => ?_⟩
  show decodeWords (wordA16Zp 0b101#3 r 0b1#1 zp) xx = _
  rw [decodeWords_zpReg16]; rfl

theorem xor16ZpReg (zp : BitVec 7) (r : Reg16) : Statement (.xor16ZpReg zp r) := by
  refine ⟨words_cases _, fun xx _ _ => ?_⟩
  show decodeWords (wordA16Zp 0b110#3 r 0b1#1 zp) xx = _
  rw [decodeWords_zpReg16]; rfl

theorem test16RegZp (r : Reg16) (zp : BitVec 7) : Statement (.test16RegZp r zp) := by
  refine ⟨words_cases _, fun xx _ _ => ?_⟩
  show decodeWords (wordA16Zp 0b111#3 r 0b1#1 zp) xx = _
  rw [decodeWords_zpReg16]; rfl

theorem add16DestReg (dst : WordDest) (r : Reg16) : Statement (.add16DestReg dst r) := by
  refine ⟨words_cases _, fun xx h hi => ?_⟩
  show decodeWords (wordA16 0b000#3 r 0b10#2 dst.code) xx = _
  obtain ⟨h1, h2⟩ := (Bool.and_eq_true _ _).mp h
  rw [decodeWords_destReg16, if_neg (by decide), isWordReg_of_notGeneral h2 h1, decodeWordDest_code h1 hi]; rfl

theorem sub16DestReg (dst : WordDest) (r : Reg16) : Statement (.sub16DestReg dst r) := by
  refine ⟨words_cases _, fun xx h hi => ?_⟩
  show decodeWords (wordA16 0b001#3 r 0b10#2 dst.code) xx = _
  obtain ⟨h1, h2⟩ := (Bool.and_eq_true _ _).mp h
  rw [decodeWords_destReg16, if_neg (by decide), isWordReg_of_notGeneral h2 h1, decodeWordDest_code h1 hi]; rfl

theorem adc16DestReg (dst : WordDest) (r : Reg16) : Statement (.adc16DestReg dst r) := by
  refine ⟨words_cases _, fun xx h hi => ?_⟩
  show decodeWords (wordA16 0b010#3 r 0b10#2 dst.code) xx = _
  obtain ⟨h1, h2⟩ := (Bool.and_eq_true _ _).mp h
  rw [decodeWords_destReg16, if_neg (by decide), isWordReg_of_notGeneral h2 h1, decodeWordDest_code h1 hi]; rfl

theorem sbc16DestReg (dst : WordDest) (r : Reg16) : Statement (.sbc16DestReg dst r) := by
  refine ⟨words_cases _, fun xx h hi => ?_⟩
  show decodeWords (wordA16 0b011#3 r 0b10#2 dst.code) xx = _
  obtain ⟨h1, h2⟩ := (Bool.and_eq_true _ _).mp h
  rw [decodeWords_destReg16, if_neg (by decide), isWordReg_of_notGeneral h2 h1, decodeWordDest_code h1 hi]; rfl

theorem and16DestReg (dst : WordDest) (r : Reg16) : Statement (.and16DestReg dst r) := by
  refine ⟨words_cases _, fun xx h hi => ?_⟩
  show decodeWords (wordA16 0b100#3 r 0b10#2 dst.code) xx = _
  obtain ⟨h1, h2⟩ := (Bool.and_eq_true _ _).mp h
  rw [decodeWords_destReg16, if_neg (by decide), isWordReg_of_notGeneral h2 h1, decodeWordDest_code h1 hi]; rfl

theorem or16DestReg (dst : WordDest) (r : Reg16) : Statement (.or16DestReg dst r) := by
  refine ⟨words_cases _, fun xx h hi => ?_⟩
  show decodeWords (wordA16 0b101#3 r 0b10#2 dst.code) xx = _
  obtain ⟨h1, h2⟩ := (Bool.and_eq_true _ _).mp h
  rw [decodeWords_destReg16, if_neg (by decide), isWordReg_of_notGeneral h2 h1, decodeWordDest_code h1 hi]; rfl

theorem xor16DestReg (dst : WordDest) (r : Reg16) : Statement (.xor16DestReg dst r) := by
  refine ⟨words_cases _, fun xx h hi => ?_⟩
  show decodeWords (wordA16 0b110#3 r 0b10#2 dst.code) xx = _
  obtain ⟨h1, h2⟩ := (Bool.and_eq_true _ _).mp h
  rw [decodeWords_destReg16, if_neg (by decide), isWordReg_of_notGeneral h2 h1, decodeWordDest_code h1 hi]; rfl

theorem ret : Statement (.ret) := by
  refine ⟨words_cases _, fun xx _ _ => ?_⟩
  show decodeWords (0x2005) xx = _
  rfl

theorem jumpSrc (src : WordSrc) : Statement (.jumpSrc src) := by
  refine ⟨words_cases _, fun xx h hi => ?_⟩
  show decodeWords (0b0010000000#10 ++ src.code) xx = _
  obtain ⟨h1, h2⟩ := (Bool.and_eq_true _ _).mp h
  rw [decodeWords_jump _ _ (code_ne_pop h2 h1), decodeWordSrc_code h1 hi]; rfl

theorem callSrc (src : WordSrc) : Statement (.callSrc src) := by
  refine ⟨words_cases _, fun xx h hi => ?_⟩
  show decodeWords (0b0010000001#10 ++ src.code) xx = _
  rw [decodeWords_call, decodeWordSrc_code h hi]; rfl

theorem unassignedMul (data : BitVec 7) : Statement (.unassignedMul data) := by
  refine ⟨words_cases _, fun xx _ _ => ?_⟩
  show decodeWords (0b001100000#9 ++ data) xx = _
  rw [decodeWords_unassignedMul]

theorem mov8RegImm (r : Reg8) (imm : BitVec 8) : Statement (.mov8RegImm r imm) := by
  refine ⟨words_cases _, fun xx _ _ => ?_⟩
  show decodeWords (wordM8 0b0#1 0b1#1 r imm) xx = _
  rw [decodeWords_movImm8]

theorem swap8ZpReg (zp : BitVec 7) (r : Reg8) : Statement (.swap8ZpReg zp r) := by
  refine ⟨words_cases _, fun xx _ _ => ?_⟩
  show decodeWords (wordM8 0b0#1 0b0#1 r (0b1#1 ++ zp)) xx = _
  rw [decodeWords_swapZp8]

theorem mov8RegSrc (r : Reg8) (src : ByteSrc) : Statement (.mov8RegSrc r src) := by
  refine ⟨words_cases _, fun xx h hi => ?_⟩
  show decodeWords (wordM8 0b1#1 0b1#1 r (0b00#2 ++ src.code)) xx = _
  rw [decodeWords_movSrc8, decodeByteSrc_code h hi]; rfl

theorem ror8RegImm (r : Reg8) (imm : BitVec 4) : Statement (.ror8RegImm r imm) := by
  refine ⟨words_cases _, fun xx _ _ => ?_⟩
  show decodeWords (wordM8 0b1#1 0b1#1 r (0b0100#4 ++ imm)) xx = _
  rw [append_split 0b0100#4 0b01#2 0b00#2, decodeWords_shiftImm8, shift8RegImm_append]; rfl

theorem sar8RegImm (r : Reg8) (imm : BitVec 4) : Statement (.sar8RegImm r imm) := by
  refine ⟨words_cases _, fun xx _ _ => ?_⟩
  show decodeWords (wordM8 0b1#1 0b1#1 r (0b0101#4 ++ imm)) xx = _
  rw [append_split 0b0101#4 0b01#2 0b01#2, decodeWords_shiftImm8, shift8RegImm_append]; rfl

theorem shr8RegImm (r : Reg8) (imm : BitVec 4) : Statement (.shr8RegImm r imm) := by
  refine ⟨words_cases _, fun xx _ _ => ?_⟩
  show decodeWords (wordM8 0b1#1 0b1#1 r (0b0110#4 ++ imm)) xx = _
  rw [append_split 0b0110#4 0b01#2 0b10#2, decodeWords_shiftImm8, shift8RegImm_append]; rfl

theorem shl8RegImm (r : Reg8) (imm : BitVec 4) : Statement (.shl8RegImm r imm) := by
  refine ⟨words_cases _, fun xx _ _ => ?_⟩
  show decodeWords (wordM8 0b1#1 0b1#1 r (0b0111#4 ++ imm)) xx = _
  rw [append_split 0b0111#4 0b01#2 0b11#2, decodeWords_shiftImm8, shift8RegImm_append]; rfl

theorem not8RegReg (r1 : Reg8) (r2 : Reg8) : Statement (.not8RegReg r1 r2) := by
  refine ⟨words_cases _, fun xx _ _ => ?_⟩
  show decodeWords (wordM8 0b1#1 0b1#1 r2 (0b10001#5 ++ r1.num)) xx = _
  rw [notCode8_split, decodeWords_movDest8, isByteReg_code, reg8OfNum_code]; rfl

theorem swap8DestReg (dst : ByteDest) (r : Reg8) : Statement (.swap8DestReg dst r) := by
  refine ⟨words_cases _, fun xx h hi => ?_⟩
  show decodeWords (wordM8 0b1#1 0b1#1 r (0b11#2 ++ dst.code)) xx = _
  rw [decodeWords_swapDest8, decodeByteDest_code h hi]; rfl

theorem mov8RegZp (r : Reg8) (zp : BitVec 7) : Statement (.mov8RegZp r zp) := by
  refine ⟨words_cases _, fun xx _ _ => ?_⟩
  show decodeWords (wordM8 0b1#1 0b0#1 r (0b0#1 ++ zp)) xx = _
  rw [decodeWords_movRegZp8]

theorem mov8ZpReg (zp : BitVec 7) (r : Reg8) : Statement (.mov8ZpReg zp r) := by
  refine ⟨words_cases _, fun xx _ _ => ?_⟩
  show decodeWords (wordM8 0b1#1 0b0#1 r (0b1#1 ++ zp)) xx = _
  rw [decodeWords_movZpReg8]

theorem mul8RegSrc8 (r : Reg8) (src : Src8) : Statement (.mul8RegSrc8 r src) := by
  refine ⟨words_cases _, fun xx h hi => ?_⟩
  show decodeWords (wordM8 0b0#1 0b0#1 r (0#1 ++ ~~~mulImmZ ++ src.code)) xx = _
  obtain ⟨h1, h2⟩ := (Bool.and_eq_true _ _).mp h
  rw [decodeWords_mulSrc8 (h := h1), decodeSrc8_code h2 hi]; rfl

theorem mul8RegImm (r : Reg8) (imm : BitVec 6) : Statement (.mul8RegImm r imm) := by
  refine ⟨words_cases _, fun xx h _ => ?_⟩
  show decodeWords (wordM8 0b0#1 0b0#1 r (0#1 ++ mulImmZ ++ imm)) xx = _
  rw [decodeWords_mulImm8 (h := h)]

theorem mov8DestReg (dst : ByteDest) (r : Reg8) : Statement (.mov8DestReg dst r) := by
  refine ⟨words_cases _, fun xx h hi => ?_⟩
  show decodeWords (wordM8 0b1#1 0b1#1 r (0b10#2 ++ dst.code)) xx = _
  obtain ⟨h1, h2⟩ := (Bool.and_eq_true _ _).mp h
  rw [decodeWords_movDest8, isByteReg_of_notGeneral h2 h1, decodeByteDest_code h1 hi]; rfl

theorem jumpZp (zp : BitVec 7) : Statement (.jumpZp zp) := by
  refine ⟨words_cases _, fun xx _ _ => ?_⟩
  show decodeWords (0b000100000#9 ++ zp) xx = _
  rw [decodeWords_jumpZp]

theorem mov16RegImm (r : Reg16) (imm : BitVec 8) : Statement (.mov16RegImm r imm) := by
  refine ⟨words_cases _, fun xx _ _ => ?_⟩
  show decodeWords (wordM16 0b0#1 0b1#1 r imm) xx = _
  rw [decodeWords_movImm16]

theorem swap16ZpReg (zp : BitVec 7) (r : Reg16) : Statement (.swap16ZpReg zp r) := by
  refine ⟨words_cases _, fun xx _ _ => ?_⟩
  show decodeWords (wordM16 0b0#1 0b0#1 r (0b1#1 ++ zp)) xx = _
  rw [decodeWords_swapZp16]

theorem mov16RegSrc (r : Reg16) (src : WordSrc) : Statement (.mov16RegSrc r src) := by
  refine ⟨words_cases _, fun xx h hi => ?_⟩
  show decodeWords (wordM16 0b1#1 0b1#1 r (0b00#2 ++ src.code)) xx = _
  rw [decodeWords_movSrc16, decodeWordSrc_code h hi]; rfl

theorem ror16RegImm (r : Reg16) (imm : BitVec 4) : Statement (.ror16RegImm r imm) := by
  refine ⟨words_cases _, fun xx _ _ => ?_⟩
  show decodeWords (wordM16 0b1#1 0b1#1 r (0b0100#4 ++ imm)) xx = _
  rw [append_split 0b0100#4 0b01#2 0b00#2, decodeWords_shiftImm16, shift16RegImm_append]; rfl

theorem sar16RegImm (r : Reg16) (imm : BitVec 4) : Statement (.sar16RegImm r imm) := by
  refine ⟨words_cases _, fun xx _ _ => ?_⟩
  show decodeWords (wordM16 0b1#1 0b1#1 r (0b0101#4 ++ imm)) xx = _
  rw [append_split 0b0101#4 0b01#2 0b01#2, decodeWords_shiftImm16, shift16RegImm_append]; rfl

theorem shr16RegImm (r : Reg16) (imm : BitVec 4) : Statement (.shr16RegImm r imm) := by
  refine ⟨words_cases _, fun xx _ _ => ?_⟩
  show decodeWords (wordM16 0b1#1 0b1#1 r (0b0110#4 ++ imm)) xx = _
  rw [append_split 0b0110#4 0b01#2 0b10#2, decodeWords_shiftImm16, shift16RegImm_append]; rfl

theorem shl16RegImm (r : Reg16) (imm : BitVec 4) : Statement (.shl16RegImm r imm) := by
  refine ⟨words_cases _, fun xx _ _ => ?_⟩
  show decodeWords (wordM16 0b1#1 0b1#1 r (0b0111#4 ++ imm)) xx = _
  rw [append_split 0b0111#4 0b01#2 0b11#2, decodeWords_shiftImm16, shift16RegImm_append]; rfl

theorem not16RegReg (r1 : Reg16) (r2 : Reg16) : Statement (.not16RegReg r1 r2) := by
  refine ⟨words_cases _, fun xx _ _ => ?_⟩
  show decodeWords (wordM16 0b1#1 0b1#1 r2 (0b10000#5 ++ r1.num ++ 0#1)) xx = _
  rw [notCode16_split, decodeWords_movDest16, isWordReg_code, reg16OfNum_code]; rfl

theorem swap16DestReg (dst : WordDest) (r : Reg16) : Statement (.swap16DestReg dst r) := by
  refine ⟨words_cases _, fun xx h hi => ?_⟩
  show decodeWords (wordM16 0b1#1 0b1#1 r (0b11#2 ++ dst.code)) xx = _
  rw [decodeWords_swapDest16, decodeWordDest_code h hi]; rfl

theorem mov16RegZp (r : Reg16) (zp : BitVec 7) : Statement (.mov16RegZp r zp) := by
  refine ⟨words_cases _, fun xx _ _ => ?_⟩
  show decodeWords (wordM16 0b1#1 0b0#1 r (0b0#1 ++ zp)) xx = _
  rw [decodeWords_movRegZp16]

theorem mov16ZpReg (zp : BitVec 7) (r : Reg16) : Statement (.mov16ZpReg zp r) := by
  refine ⟨words_cases _, fun xx _ _ => ?_⟩
  show decodeWords (wordM16 0b1#1 0b0#1 r (0b1#1 ++ zp)) xx = _
  rw [decodeWords_movZpReg16]

theorem mul16RegSrc8 (r : Reg16) (src : Src8) : Statement (.mul16RegSrc8 r src) := by
  refine ⟨words_cases _, fun xx h hi => ?_⟩
  show decodeWords (wordM16 0b0#1 0b0#1 r (0#1 ++ ~~~mulImmZ ++ src.code)) xx = _
  obtain ⟨h1, h2⟩ := (Bool.and_eq_true _ _).mp h
  rw [decodeWords_mulSrc16 (h := h1), decodeSrc8_code h2 hi]; rfl

theorem mul16RegImm (r : Reg16) (imm : BitVec 6) : Statement (.mul16RegImm r imm) := by
  refine ⟨words_cases _, fun xx h _ => ?_⟩
  show decodeWords (wordM16 0b0#1 0b0#1 r (0#1 ++ mulImmZ ++ imm)) xx = _
  rw [decodeWords_mulImm16 (h := h)]

theorem mov16DestReg (dst : WordDest) (r : Reg16) : Statement (.mov16DestReg dst r) := by
  refine ⟨words_cases _, fun xx h hi => ?_⟩
  show decodeWords (wordM16 0b1#1 0b1#1 r (0b10#2 ++ dst.code)) xx = _
  obtain ⟨h1, h2⟩ := (Bool.and_eq_true _ _).mp h
  rw [decodeWords_movDest16, isWordReg_of_notGeneral h2 h1, decodeWordDest_code h1 hi]; rfl

theorem branchAlways (imm : BitVec 8) : Statement (.branchAlways imm) := by
  refine ⟨words_cases _, fun xx _ _ => ?_⟩
  show decodeWords (0b0000#4 ++ 0b0000#4 ++ imm) xx = _
  rw [decodeWords_branch]; rfl

theorem branchCall (imm : BitVec 8) : Statement (.branchCall imm) := by
  refine ⟨words_cases _, fun xx _ _ => ?_⟩
  show decodeWords (0b0000#4 ++ 0b0001#4 ++ imm) xx = _
  rw [decodeWords_branch]; rfl

theorem unassignedBranch2 (imm : BitVec 8) : Statement (.unassignedBranch2 imm) := by
  refine ⟨words_cases _, fun xx _ _ => ?_⟩
  show decodeWords (0b0000#4 ++ 0b0010#4 ++ imm) xx = _
  rw [decodeWords_branch]; rfl

theorem unassignedBranch3 (imm : BitVec 8) : Statement (.unassignedBranch3 imm) := by
  refine ⟨words_cases _, fun xx _ _ => ?_⟩
  show decodeWords (0b0000#4 ++ 0b0011#4 ++ imm) xx = _
  rw [decodeWords_branch]; rfl

theorem branchZ (imm : BitVec 8) : Statement (.branchZ imm) := by
  refine ⟨words_cases _, fun xx _ _ => ?_⟩
  show decodeWords (0b0000#4 ++ 0b0100#4 ++ imm) xx = _
  rw [decodeWords_branch]; rfl

theorem branchNz (imm : BitVec 8) : Statement (.branchNz imm) := by
  refine ⟨words_cases _, fun xx _ _ => ?_⟩
  show decodeWords (0b0000#4 ++ 0b0101#4 ++ imm) xx = _
  rw [decodeWords_branch]; rfl

theorem branchS (imm : BitVec 8) : Statement (.branchS imm) := by
  refine ⟨words_cases _, fun xx _ _ => ?_⟩
  show decodeWords (0b0000#4 ++ 0b0110#4 ++ imm) xx = _
  rw [decodeWords_branch]; rfl

theorem branchNs (imm : BitVec 8) : Statement (.branchNs imm) := by
  refine ⟨words_cases _, fun xx _ _ => ?_⟩
  show decodeWords (0b0000#4 ++ 0b0111#4 ++ imm) xx = _
  rw [decodeWords_branch]; rfl

theorem branchC (imm : BitVec 8) : Statement (.branchC imm) := by
  refine ⟨words_cases _, fun xx _ _ => ?_⟩
  show decodeWords (0b0000#4 ++ 0b1000#4 ++ imm) xx = _
  rw [decodeWords_branch]; rfl

theorem branchNc (imm : BitVec 8) : Statement (.branchNc imm) := by
  refine ⟨words_cases _, fun xx _ _ => ?_⟩
  show decodeWords (0b0000#4 ++ 0b1001#4 ++ imm) xx = _
  rw [decodeWords_branch]; rfl

theorem branchA (imm : BitVec 8) : Statement (.branchA imm) := by
  refine ⟨words_cases _, fun xx _ _ => ?_⟩
  show decodeWords (0b0000#4 ++ 0b1010#4 ++ imm) xx = _
  rw [decodeWords_branch]; rfl

theorem branchNa (imm : BitVec 8) : Statement (.branchNa imm) := by
  refine ⟨words_cases _, fun xx _ _ => ?_⟩
  show decodeWords (0b0000#4 ++ 0b1011#4 ++ imm) xx = _
  rw [decodeWords_branch]; rfl

theorem branchV (imm : BitVec 8) : Statement (.branchV imm) := by
  refine ⟨words_cases _, fun xx _ _ => ?_⟩
  show decodeWords (0b0000#4 ++ 0b1100#4 ++ imm) xx = _
  rw [decodeWords_branch]; rfl

theorem branchNv (imm : BitVec 8) : Statement (.branchNv imm) := by
  refine ⟨words_cases _, fun xx _ _ => ?_⟩
  show decodeWords (0b0000#4 ++ 0b1101#4 ++ imm) xx = _
  rw [decodeWords_branch]; rfl

theorem branchG (imm : BitVec 8) : Statement (.branchG imm) := by
  refine ⟨words_cases _, fun xx _ _ => ?_⟩
  show decodeWords (0b0000#4 ++ 0b1110#4 ++ imm) xx = _
  rw [decodeWords_branch]; rfl

theorem branchNg (imm : BitVec 8) : Statement (.branchNg imm) := by
  refine ⟨words_cases _, fun xx _ _ => ?_⟩
  show decodeWords (0b0000#4 ++ 0b1111#4 ++ imm) xx = _
  rw [decodeWords_branch]; rfl

end Sys2Proof.Laws.RoundTrip
end

