-- ==== Sys2Proof/Laws/Step.lean ====
section
/-! SUPPORT. What the fetch depends on. -/

namespace Sys2Proof.Machine

/-- Two states that agree on `pc`, on the stored addresses, and on every byte outside these, fetch the same
instruction (R52). -/
theorem fetch_congr {t u : State} (i : Instr) (hp : u.pc = t.pc) (hs : u.stored = t.stored)
    (hm : ∀ a, a ∉ t.stored → u.mem.read a = t.mem.read a) (h : fetch t = .ok i) : fetch u = .ok i := by
  have hw : ∀ a w, fetchWord t a = .ok w → fetchWord u a = .ok w := by
    intro a w h
    unfold fetchWord State.wasStored at *
    rw [hs]
    split at h
    · cases h
    · next hn =>
      rw [if_neg hn]
      simp only [Bool.or_eq_true, decide_eq_true_eq, not_or] at hn
      cases h
      simp only [State.readByte]
      rw [hm _ hn.1, hm _ hn.2]
  unfold fetch at *
  rw [hp]
  split at h
  · cases h
  · next hodd =>
    rw [if_neg hodd]
    split at h
    · cases h
    · next w e =>
      rw [hw _ _ e]
      dsimp only
      split at h
      · cases h
      · next j e2 =>
        split at h
        · next h1 => simp only [h1, if_true]; exact h
        · next h1 =>
          split at h
          · cases h
          · next h3 =>
            split at h
            · cases h
            · next w2 e3 =>
              rw [if_neg h1, if_neg h3, hw _ _ e3]
              exact h

end Sys2Proof.Machine
end

