-- ==== Sys2Proof/Tests/Slice0.lean ====
section
/-! SUPPORT. Tests of the model: ill-formed terms that are refused, a word for every constructor's decoding, single steps
from the spec's worked examples (95_test_vectors.md), and for each statement with hypotheses a state and operands that
meet them, with the boundary values of each clause. -/

namespace Sys2Proof.Tests

open Sys2Proof Sys2Proof.Machine

/-! ### Helpers -/

/-- A state with the given low half of the stack pointer and memory, its code at 0x0200. -/
def stateAt (p : Byte) (mem : Memory) : State := { State.reset with p := p, mem := mem, pc := 0x0200 }

/-- A state with general registers `a` to `h`. -/
def stateRegs (a b c d e f g h : Byte) (mem : Memory) : State :=
  { stateAt 0x80 mem with regs := { a := a, b := b, c := c, d := d, e := e, f := f, g := g, h := h } }

/-- What is wanted of the next state, if there is one. -/
def after {α : Type} (r : Result) (f : State → α) : Option α :=
  match r with
  | .next t => some (f t)
  | .fault _ | .refused _ => none

/-- The reason of a refusal, if it is one. -/
def reason (r : Result) : Option Refusal :=
  match r with
  | .refused e => some e
  | .next _ | .fault _ => none

/-- Each word decodes to the instruction beside it, with 0x1234 as the word after it. -/
def decodesAll (l : List (Word × Instr)) : Bool := l.all fun e => decide (decodeWords e.1 0x1234 = some e.2)

/-! ### Terms that are not well formed -/

theorem test_wf_index_overlaps_base : Instr.wf (.mov8RegSrc .g (.mem (.indexed .ba .b))) = false := by decide

theorem test_wf_index_overlaps_base_in_dest : Instr.wf (.add16DestReg (.mem (.indexed .dc .c)) .ba) = false := by decide

theorem test_wf_index_overlaps_base_in_src8 : Instr.wf (.shl8RegSrc8 .a (.mem (.indexed .hg .h))) = false := by decide

theorem test_wf_binop_dest_register : Instr.wf (.add8DestReg (.reg .c) .a) = false := by decide

theorem test_wf_binop_dest_pair : Instr.wf (.xor16DestReg (.reg .dc) .ba) = false := by decide

theorem test_wf_mov_dest_register : Instr.wf (.mov8DestReg (.reg .c) .a) = false := by decide

theorem test_wf_mov_dest_pair : Instr.wf (.mov16DestReg (.reg .dc) .ba) = false := by decide

theorem test_wf_jump_pop : Instr.wf (.jumpSrc .pop) = false := by decide

theorem test_wf_mul_first_pair : Instr.wf (.mul16RegSrc8 .ba (.reg .c)) = false := by decide

theorem test_wf_mul_first_registers : Instr.wf (.mul8RegSrc8 .b (.reg .c)) = false ∧ Instr.wf (.mul8RegImm .a 3) = false := by
  decide

/-! ### Decoding -/

/-- Words of spec/opcode_table.json with the fields filled in: jumps, calls and `ret` (R60 to R64, R79, R85). -/
theorem test_decode_jump : decodesAll
    [(0b0010000000000101, .ret), (0b0010000000111110, .jumpSrc (.mem (.postInc .hg))),
      (0b0010000001111110, .callSrc (.mem (.postInc .hg))), (0b0001000001000010, .jumpZp 0x42)] = true := by decide

/-- Words of spec/opcode_table.json with the fields filled in: 8-bit instructions with `src` (R60 to R64, R79, R85). -/
theorem test_decode_src8 : decodesAll
    [(0b1000010000000001, .add8RegSrc .a (.imm 0x1234)), (0b1100111000000010, .sub8RegSrc .f .flags),
      (0b1001010100000101, .adc8RegSrc .c .pop), (0b1101111100000111, .sbc8RegSrc .h .sp),
      (0b1010011000001101, .and8RegSrc .e (.reg .f)), (0b1110110000001010, .or8RegSrc .b (.reg .c)),
      (0b1011011100100011, .xor8RegSrc .g (.mem (.indexed .ba .d))),
      (0b1111110100101000, .cmp8RegSrc .d (.mem (.indexed .dc .a))),
      (0b1011110010111001, .test8RegSrc .a (.mem (.indexed .hg .b)))] = true := by decide

/-- Words of spec/opcode_table.json with the fields filled in: 8-bit `imm6` (R60 to R64, R79, R85). -/
theorem test_decode_imm8 : decodesAll
    [(0b1000010001000100, .add8RegImm .a 0x4), (0b1100111001011111, .revsub8RegImm .f 0x1f),
      (0b1001010101111010, .adc8RegImm .c 0x3a), (0b1101111101010101, .revsbc8RegImm .h 0x15),
      (0b1010011001110000, .and8RegImm .e 0x30), (0b1110110001001011, .or8RegImm .b 0xb),
      (0b1011011101100110, .xor8RegImm .g 0x26), (0b1111110101000001, .cmp8RegImm .d 0x1)] = true := by decide

/-- Words of spec/opcode_table.json with the fields filled in: 8-bit alternate operations (R60 to R64, R79, R85). -/
theorem test_decode_alternate8 : decodesAll
    [(0b1100011010001111, .neg8RegReg .h .f), (0b1000110110001010, .revsub8RegReg .c .c),
      (0b1101011110001101, .negc8RegReg .f .h), (0b1001111010001000, .revsbc8RegReg .a .e),
      (0b1110010010001011, .andNot8RegReg .d .b), (0b1010111110001110, .orNot8RegReg .g .g),
      (0b1111010110001001, .xorNot8RegReg .b .d)] = true := by decide

/-- Words of spec/opcode_table.json with the fields filled in: 8-bit shifts (R60 to R64, R79, R85). -/
theorem test_decode_shift8 : decodesAll
    [(0b1000010011000001, .ror8RegSrc8 .a (.imm 0x1234)), (0b1101011011000101, .sar8RegSrc8 .f .pop),
      (0b1010010111000111, .shr8RegSrc8 .c .sp), (0b1111011111001101, .shl8RegSrc8 .h (.reg .f)),
      (0b1011111011100011, .rol8RegSrc8 .e (.mem (.indexed .ba .d))), (0b0011110101001001, .ror8RegImm .d 0x9),
      (0b0010110001010100, .sar8RegImm .a 0x4), (0b0011111001101111, .shr8RegImm .f 0xf),
      (0b0010110101111010, .shl8RegImm .c 0xa)] = true := by decide

/-- Words of spec/opcode_table.json with the fields filled in: the rows without an instruction (R60 to R64, R79, R85). -/
theorem test_decode_unassigned : decodesAll
    [(0b1100110011111011, .unassignedShift8Op1 .b 0x3b), (0b1001111111010110, .unassignedShift8Op3 .g 0x16),
      (0b1110110111110001, .unassignedShift8Op5 .d 0x31), (0b0100111111001011, .unassignedShift16Op1 .hg 0xb),
      (0b0101111011100110, .unassignedShift16Op3 .fe 0x26), (0b0110110111000001, .unassignedShift16Op5 .dc 0x1),
      (0b0011000000011101, .unassignedMul 0x1d), (0b0000001010000000, .unassignedBranch2 0x80),
      (0b0000001111011011, .unassignedBranch3 0xdb)] = true := by decide

/-- Words of spec/opcode_table.json with the fields filled in: 8-bit `[zp]` (R60 to R64, R79, R85). -/
theorem test_decode_zp8 : decodesAll
    [(0b1000000001001100, .add8RegZp .a 0x4c), (0b1100101000100111, .sub8RegZp .f 0x27),
      (0b1001000100000010, .adc8RegZp .c 0x2), (0b1101101101011101, .sbc8RegZp .h 0x5d),
      (0b1010001000111000, .and8RegZp .e 0x38), (0b1110100000010011, .or8RegZp .b 0x13),
      (0b1011001101101110, .xor8RegZp .g 0x6e), (0b1111100101001001, .cmp8RegZp .d 0x49),
      (0b1000000010100100, .add8ZpReg 0x24 .a), (0b1100101011111111, .sub8ZpReg 0x7f .f),
      (0b1001000111011010, .adc8ZpReg 0x5a .c), (0b1101101110110101, .sbc8ZpReg 0x35 .h),
      (0b1010001010010000, .and8ZpReg 0x10 .e), (0b1110100011101011, .or8ZpReg 0x6b .b),
      (0b1011001111000110, .xor8ZpReg 0x46 .g), (0b1111100110100001, .test8RegZp .d 0x21)] = true := by decide

/-- Words of spec/opcode_table.json with the fields filled in: 16-bit instructions with `src` (R60 to R64, R79, R85). -/
theorem test_decode_src16 : decodesAll
    [(0b0100010000000001, .add16RegSrc .ba (.imm 0x1234)), (0b0100111100000100, .sub16RegSrc .hg (.reg .fe)),
      (0b0101011000000101, .adc16RegSrc .fe .pop), (0b0101110100000111, .sbc16RegSrc .dc .sp),
      (0b0110010000001101, .and16RegSrc .ba (.ext .f)), (0b0110111100000010, .or16RegSrc .hg (.reg .dc)),
      (0b0111011000100011, .xor16RegSrc .fe (.mem (.indexed .ba .d))),
      (0b0111110100101000, .cmp16RegSrc .dc (.mem (.indexed .dc .a))),
      (0b0111110010111001, .test16RegSrc .ba (.mem (.indexed .hg .b)))] = true := by decide

/-- Words of spec/opcode_table.json with the fields filled in: 16-bit `imm6` (R60 to R64, R79, R85). -/
theorem test_decode_imm16 : decodesAll
    [(0b0100010001010100, .add16RegImm .ba 0x14), (0b0100111101101111, .revsub16RegImm .hg 0x2f),
      (0b0101011001001010, .adc16RegImm .fe 0xa), (0b0101110101100101, .revsbc16RegImm .dc 0x25),
      (0b0110010001000000, .and16RegImm .ba 0x0), (0b0110111101011011, .or16RegImm .hg 0x1b),
      (0b0111011001110110, .xor16RegImm .fe 0x36), (0b0111110101010001, .cmp16RegImm .dc 0x11)] = true := by decide

/-- Words of spec/opcode_table.json with the fields filled in: 16-bit alternate operations (R60 to R64, R79, R85). -/
theorem test_decode_alternate16 : decodesAll
    [(0b0100011110000000, .neg16RegReg .ba .hg), (0b0100111010000010, .revsub16RegReg .dc .fe),
      (0b0101010110000100, .negc16RegReg .fe .dc), (0b0101110010000110, .revsbc16RegReg .hg .ba),
      (0b0110011110000000, .andNot16RegReg .ba .hg), (0b0110111010000010, .orNot16RegReg .dc .fe),
      (0b0111010110000100, .xorNot16RegReg .fe .dc)] = true := by decide

/-- Words of spec/opcode_table.json with the fields filled in: 16-bit shifts (R60 to R64, R79, R85). -/
theorem test_decode_shift16 : decodesAll
    [(0b0100010011101000, .ror16RegSrc8 .ba (.mem (.indexed .dc .a))),
      (0b0101011111111001, .sar16RegSrc8 .hg (.mem (.indexed .hg .b))),
      (0b0110011011100000, .shr16RegSrc8 .fe (.mem (.postInc .ba))),
      (0b0111010111111110, .shl16RegSrc8 .dc (.mem (.postInc .hg))),
      (0b0111110011110101, .rol16RegSrc8 .ba (.mem (.preDec .fe))), (0b0001111001000010, .ror16RegImm .fe 0x2),
      (0b0001110101011101, .sar16RegImm .dc 0xd), (0b0001110001101000, .shr16RegImm .ba 0x8),
      (0b0001111101110011, .shl16RegImm .hg 0x3)] = true := by decide

/-- Words of spec/opcode_table.json with the fields filled in: 16-bit `[zp]` (R60 to R64, R79, R85). -/
theorem test_decode_zp16 : decodesAll
    [(0b0100000001011100, .add16RegZp .ba 0x5c), (0b0100101100110111, .sub16RegZp .hg 0x37),
      (0b0101001000010010, .adc16RegZp .fe 0x12), (0b0101100101101101, .sbc16RegZp .dc 0x6d),
      (0b0110000001001000, .and16RegZp .ba 0x48), (0b0110101100100011, .or16RegZp .hg 0x23),
      (0b0111001001111110, .xor16RegZp .fe 0x7e), (0b0111100101011001, .cmp16RegZp .dc 0x59),
      (0b0100000010110100, .add16ZpReg 0x34 .ba), (0b0100101110001111, .sub16ZpReg 0xf .hg),
      (0b0101001011101010, .adc16ZpReg 0x6a .fe), (0b0101100111000101, .sbc16ZpReg 0x45 .dc),
      (0b0110000010100000, .and16ZpReg 0x20 .ba), (0b0110101111111011, .or16ZpReg 0x7b .hg),
      (0b0111001011010110, .xor16ZpReg 0x56 .fe), (0b0111100110110001, .test16RegZp .dc 0x31)] = true := by decide

/-- Words of spec/opcode_table.json with the fields filled in: `mov`, `swap` and `not` (R60 to R64, R79, R85). -/
theorem test_decode_mov_swap_not : decodesAll
    [(0b0010011011111000, .mov8RegImm .e 0xf8), (0b0011000011010011, .swap8ZpReg 0x53 .b),
      (0b0010111100100000, .mov8RegSrc .g (.mem (.postInc .ba))), (0b0011111110001101, .not8RegReg .f .h),
      (0b0010111011001110, .swap8DestReg (.reg .g) .e), (0b0011100000101011, .mov8RegZp .b 0x2b),
      (0b0010101110000110, .mov8ZpReg 0x6 .g), (0b0001010111100001, .mov16RegImm .dc 0xe1),
      (0b0001000010111100, .swap16ZpReg 0x3c .ba), (0b0001111100110101, .mov16RegSrc .hg (.mem (.preDec .fe))),
      (0b0001111010000010, .not16RegReg .dc .fe), (0b0001110111000110, .swap16DestReg (.reg .hg) .dc),
      (0b0001100000010100, .mov16RegZp .ba 0x14), (0b0001101111101111, .mov16ZpReg 0x6f .hg),
      (0b0010110110110101, .mov8DestReg (.mem (.preDec .fe)) .c),
      (0b0001111110101011, .mov16DestReg (.mem (.preDec .dc)) .hg)] = true := by decide

/-- Words of spec/opcode_table.json with the fields filled in: branches (R60 to R64, R79, R85). -/
theorem test_decode_branch : decodesAll
    [(0b0000000011001010, .branchAlways 0xca), (0b0000000100100101, .branchCall 0x25),
      (0b0000010000110110, .branchZ 0x36), (0b0000010110010001, .branchNz 0x91), (0b0000011011101100, .branchS 0xec),
      (0b0000011101000111, .branchNs 0x47), (0b0000100010100010, .branchC 0xa2), (0b0000100111111101, .branchNc 0xfd),
      (0b0000101001011000, .branchA 0x58), (0b0000101110110011, .branchNa 0xb3), (0b0000110000001110, .branchV 0xe),
      (0b0000110101101001, .branchNv 0x69), (0b0000111011000100, .branchG 0xc4), (0b0000111100011111, .branchNg 0x1f)] = true := by decide

/-- Words of spec/opcode_table.json with the fields filled in: 8-bit `dest, reg` (R60 to R64, R79, R85). -/
theorem test_decode_dest8 : decodesAll
    [(0b1000010110000111, .add8DestReg .sp .c), (0b1100111110000010, .sub8DestReg .flags .h),
      (0b1001011010100011, .adc8DestReg (.mem (.indexed .ba .d)) .e),
      (0b1101110010101000, .sbc8DestReg (.mem (.indexed .dc .a)) .b),
      (0b1010011110111001, .and8DestReg (.mem (.indexed .hg .b)) .g),
      (0b1110110110100000, .or8DestReg (.mem (.postInc .ba)) .d),
      (0b1011010010111110, .xor8DestReg (.mem (.postInc .hg)) .a)] = true := by decide

/-- Words of spec/opcode_table.json with the fields filled in: 16-bit `dest, reg` (R60 to R64, R79, R85). -/
theorem test_decode_dest16 : decodesAll
    [(0b0100011110000111, .add16DestReg .sp .hg), (0b0100111010100011, .sub16DestReg (.mem (.indexed .ba .d)) .fe),
      (0b0101010110101000, .adc16DestReg (.mem (.indexed .dc .a)) .dc),
      (0b0101110010111001, .sbc16DestReg (.mem (.indexed .hg .b)) .ba),
      (0b0110011110100000, .and16DestReg (.mem (.postInc .ba)) .hg),
      (0b0110111010111110, .or16DestReg (.mem (.postInc .hg)) .fe),
      (0b0111010110110101, .xor16DestReg (.mem (.preDec .fe)) .dc)] = true := by decide

/-- Words of spec/opcode_table.json with the fields filled in: `mul` (R60 to R64, R79, R85). -/
theorem test_decode_mul : decodesAll
    [(0b0010001000101011, .mul8RegSrc8 .e (.mem (.preDec .dc))), (0b0011001001001111, .mul8RegImm .f 0xf),
      (0b0001000100010111, .mul16RegSrc8 .dc (.mem (.disp .dc 3))), (0b0001001101100000, .mul16RegImm .hg 0x20)] = true := by decide

/-- Codes and words that decode to nothing (R79, R82): 8-bit `src` 000000, 8-bit `dest` 000001, 16-bit `dest` 001rrr, `src8` 000010. -/
theorem test_decode_refuses : [0x8400, 0x8481, 0x4488, 0xb4c2, 0x2c00, 0x2cc6].all
    (fun w => decide (decodeWords w 0x1234 = none)) = true := by decide

theorem test_decode_two_words_little_endian :
    decode [0x01, 0x1c, 0x34, 0x12, 0x00] = .ok (.mov16RegSrc .ba (.imm 0x1234), [0x00]) := rfl

theorem test_decode_table_word : decodeTableWord 16 0x2c0a = some (.mov8RegSrc .a (.reg .c)) := by decide

theorem test_decode_table_word_pads_with_zeros : decodeTableWord 16 0x1c01 = some (.mov16RegSrc .ba (.imm 0)) := by decide

/-! ### Single instructions, from the worked examples; the vector's name stands before each -/

/-- M10: the address wraps modulo 2^16, the index is in bytes. -/
theorem test_mov_indexed_wraps : after (exec (.mov16RegSrc .dc (.mem (.indexed .ba .e)))
    (stateRegs 0xff 0xff 0 0 3 0 0 0 [(2, 0xfe), (3, 0xca)])) (fun t => (t.reg16 .dc, t.pc)) = some (0xcafe, 0x0202) := by decide

/-- M16: the pointer moves down before its use, and wraps. -/
theorem test_mov_pre_decrement : after (exec (.mov8DestReg (.mem (.preDec .dc)) .a) (stateRegs 0x5a 0 0 0 0 0 0 0 []))
    (fun t => (t.reg16 .dc, t.mem)) = some (0xffff, [(0xffff, 0x5a)]) := by decide

/-- M13: a word access moves the pointer by 2. -/
theorem test_mov_post_increment : after (exec (.mov16RegSrc .dc (.mem (.postInc .ba)))
    (stateRegs 0 0x30 0 0 0 0 0 0 [(0x3000, 0x11), (0x3001, 0x22)])) (fun t => (t.reg16 .ba, t.reg16 .dc)) =
      some (0x3002, 0x2211) := by decide

/-- M28: the upper byte of a word written to `sp` is discarded. -/
theorem test_mov_sp_keeps_low_byte : after (exec (.mov16DestReg .sp .ba) (stateRegs 0xfe 0x77 0 0 0 0 0 0 []))
    (fun t => (t.p, t.sp)) = some (0xfe, 0x01fe) := by decide

/-- M34: the lowest word push; the low byte is at the lower address. -/
theorem test_mov_push_word : after (exec (.mov16DestReg .stack .ba)
    { stateRegs 0x34 0x12 0 0 0 0 0 0 [] with p := 2 }) (fun t => (t.p, t.mem)) =
      some (0, [(0x100, 0x34), (0x101, 0x12)]) := by decide

/-- M37: a word pop at the top of the page. -/
theorem test_mov_pop_word_refused : reason (exec (.mov16RegSrc .ba .pop) (stateAt 0xff [(0x1ff, 0x99)])) =
    some .stackWrap := by decide

/-- M49: `not` leaves `v` and `c`. -/
theorem test_not : after (exec (.not8RegReg .c .a)
    { stateRegs 0x0f 0 0 0 0 0 0 0 [] with flags := { z := false, s := false, v := true, c := true } })
    (fun t => (t.regs.c, t.flags.v, t.flags.c)) = some (0xf0, true, true) := by decide

/-- M52. -/
theorem test_swap_registers : after (exec (.swap8DestReg (.reg .c) .a) (stateRegs 1 0 2 0 0 0 0 0 []))
    (fun t => (t.regs.a, t.regs.c)) = some (2, 1) := by decide

/-- M61: the pointer moves once. -/
theorem test_swap_post_increment : after (exec (.swap8DestReg (.mem (.postInc .dc)) .a)
    (stateRegs 0x11 0 0 0x50 0 0 0 0 [(0x5000, 0x22)])) (fun t => (t.regs.a, t.reg16 .dc, t.mem)) =
      some (0x22, 0x5001, [(0x5000, 0x11)]) := by decide

/-- B2: carry out of a sum that leaves 2, with a negative exact sum. -/
theorem test_add_carry : after (exec (.add8RegSrc .a (.reg .a)) (stateRegs 0x81 0 0 0 0 0 0 0 []))
    (fun t => (t.regs.a, t.flags)) = some (0x02, { z := false, s := false, v := false, c := true }) := by decide

/-- B8: read, modified and written in memory. -/
theorem test_add_to_memory : after (exec (.add8DestReg (.mem (.abs 0x4000)) .a) (stateRegs 1 0 0 0 0 0 0 0 [(0x4000, 0xff)]))
    (fun t => (t.mem, t.flags, t.pc)) = some ([], { z := true, s := false, v := true, c := true }, 0x0204) := by decide

/-- B11: `p <- p + a`. -/
theorem test_add_to_sp : after (exec (.add8DestReg .sp .a) { stateRegs 0xfc 0 0 0 0 0 0 0 [] with p := 0x10 })
    (fun t => (t.p, t.flags)) = some (0x0c, { z := false, s := false, v := true, c := true }) := by decide

/-- B23: 7fff - ffff. -/
theorem test_sub_word : after (exec (.sub16RegSrc .ba (.reg .dc)) (stateRegs 0xff 0x7f 0xff 0xff 0 0 0 0 []))
    (fun t => (t.reg16 .ba, t.flags)) = some (0x8000, { z := false, s := true, v := true, c := false }) := by decide

/-- B29: the carry stands for "nothing borrowed". -/
theorem test_sbc : after (exec (.sbc8RegSrc .d (.reg .b))
    { stateRegs 0 1 0 0x10 0 0 0 0 [] with flags := { z := false, s := false, v := false, c := true } })
    (fun t => (t.regs.d, t.flags)) = some (0x0f, { z := false, s := false, v := true, c := true }) := by decide

/-- B44: unsigned below, signed greater. -/
theorem test_cmp_word : after (exec (.cmp16RegSrc .ba (.imm 0x8000)) (stateRegs 0xff 0x7f 0 0 0 0 0 0 []))
    (fun t => (t.reg16 .ba, t.flags, t.pc)) = some (0x7fff, { z := false, s := true, v := true, c := false }, 0x0204) := by decide

/-- B56: `dc <- ba - dc`. -/
theorem test_revsub_word : after (exec (.revsub16RegReg .dc .ba) (stateRegs 0 0 1 0 0 0 0 0 []))
    (fun t => (t.reg16 .dc, t.flags)) = some (0xffff, { z := false, s := true, v := false, c := false }) := by decide

/-- B59: the most negative number. -/
theorem test_neg : after (exec (.neg8RegReg .c .a) (stateRegs 0x80 0 0 0 0 0 0 0 []))
    (fun t => (t.regs.c, t.flags)) = some (0x80, { z := false, s := true, v := true, c := false }) := by decide

/-- B62. -/
theorem test_negc : after (exec (.negc8RegReg .c .a)
    { stateRegs 0 0 7 0 0 0 0 0 [] with flags := { z := false, s := false, v := false, c := true } })
    (fun t => (t.regs.c, t.flags)) = some (0, { z := true, s := false, v := true, c := true }) := by decide

/-- S10: an 8-bit `shr` has four count bits. -/
theorem test_shr_count : after (exec (.shr8RegSrc8 .a (.reg .c)) (stateRegs 0xff 0 0x19 0 0 0 0 0 [])) (fun t => t.regs.a) =
    some 0 := by decide

/-- S16. -/
theorem test_sar_word : after (exec (.sar16RegImm .ba 15) (stateRegs 0x01 0x80 0 0 0 0 0 0 [])) (fun t => t.reg16 .ba) =
    some 0xffff := by decide

/-- S19: `ror a, 5` stands for `rol a, 3`. -/
theorem test_ror : after (exec (.ror8RegImm .a 5) (stateRegs 0x81 0 0 0 0 0 0 0 [])) (fun t => t.regs.a) = some 0x0c := by decide

/-- S22: an 8-bit `rol` has three count bits. -/
theorem test_rol_count : after (exec (.rol8RegSrc8 .a (.reg .c)) (stateRegs 0x81 0 8 0 0 0 0 0 [])) (fun t => t.regs.a) =
    some 0x81 := by decide

/-- S37: `sp` as a count is the byte `p`. -/
theorem test_shl_by_sp : after (exec (.shl16RegSrc8 .ba .sp) { stateRegs 1 0 0 0 0 0 0 0 [] with p := 0x0c }) (fun t => t.reg16 .ba) =
    some 0x1000 := by decide

/-- Q9: `h` is read before it is written. -/
theorem test_mul_reads_h_first : after (exec (.mul8RegSrc8 .c (.reg .h)) (stateRegs 0 0 2 0 0 0 0 0x81 []))
    (fun t => (t.regs.c, t.regs.h)) = some (2, 1) := by decide

/-- Q3: with `h` as `reg` the high byte is not stored. -/
theorem test_mul_h : after (exec (.mul8RegSrc8 .h (.reg .c)) (stateRegs 0 0 0x11 0 0 0 0 0x10 [])) (fun t => t.regs.h) =
    some 0x10 := by decide

/-- J8, taken. -/
theorem test_branch_z : after (exec (.branchZ 3)
    { stateAt 0 [] with pc := 0x300, flags := { z := true, s := false, v := false, c := false } }) (fun t => t.pc) =
      some 0x306 := by decide

/-- J5: the target wraps. -/
theorem test_branch_wraps : after (exec (.branchAlways 0xff) { stateAt 0 [] with pc := 0 }) (fun t => t.pc) = some 0xfffe := by
  decide

/-- K6: a jump table. -/
theorem test_jump_indexed : after (exec (.jumpSrc (.mem (.indexed .ba .c)))
    (stateRegs 0 0x30 4 0 0 0 0 0 [(0x3005, 0x04)])) (fun t => t.pc) = some 0x0400 := by decide

/-- K15: the return address. -/
theorem test_call : after (exec (.callSrc (.reg .dc)) { stateRegs 0 0 0 4 0 0 0 0 [] with p := 0x10 })
    (fun t => (t.pc, t.p, t.mem)) = some (0x0400, 0x0e, [(0x10e, 0x02), (0x10f, 0x02)]) := by decide

/-- K21: `p` wraps to 0: the page is empty. -/
theorem test_ret : after (exec .ret (stateAt 0xfe [(0x1fe, 0x08), (0x1ff, 0x02)])) (fun t => (t.pc, t.p)) =
    some (0x0208, 0) := by decide

/-! ### Steps -/

/-- An instruction placed where the next fetch is runs as the next step. -/
theorem test_step_runs_placed_word : after (step (State.reset.withFetchWord 16 0x2c01)) (fun t => (t.regs.a, t.pc)) =
    some (0, 0) := by decide

/-- X1. -/
theorem test_step_odd_pc : reason (step { State.reset with pc := 0x0201 }) = some .oddPc := by decide

/-- A byte that the program has stored is not fetched (R52). -/
theorem test_step_self_modifying : reason (step { stateAt 0 [(0x200, 0x01), (0x201, 0x24)] with stored := [0x201] }) =
    some .selfModifying := by decide

/-! ### What the hypotheses of the statements allow -/

/-- O1: one word in the last two bytes of the address space, and two words that end there. -/
theorem witness_StepRunsDecodedInstruction :
    (∃ s : State, s.pc = 0xfffe ∧ s.pc.getLsbD 0 = false ∧ decode (codeBytes s) = .ok (.add8RegSrc .b (.reg .a), [0, 0]) ∧
      s.pc.toNat + 2 ≤ 65536 ∧ ∀ k, k < 2 → s.pc.toNat + k ∉ s.stored) ∧
      ∃ s : State, s.pc = 0xfffc ∧ s.pc.getLsbD 0 = false ∧ decode (codeBytes s) = .ok (.jumpSrc (.imm 0x0200), []) ∧
        s.pc.toNat + 4 ≤ 65536 ∧ ∀ k, k < 4 → s.pc.toNat + k ∉ s.stored :=
  ⟨⟨{ stateAt 0 [(0xfffe, 0x08), (0xffff, 0xc4)] with pc := 0xfffe, stored := [0xfffd] }, rfl, rfl, rfl, by decide, by decide⟩,
    { stateAt 0 [(0xfffc, 0x01), (0xfffd, 0x20), (0xffff, 0x02)] with pc := 0xfffc, stored := [0xfffb] }, rfl, rfl, rfl,
      by decide, by decide⟩

/-- O3, O4: an instruction of each length. -/
theorem witness_EncodeThenDecode : WellFormed (.mov8RegSrc .a (.mem (.abs 0x1234))) ∧ WellFormed (.ret) := ⟨rfl, rfl⟩

theorem witness_DecodeThenEncode : decode [0x05, 0x20, 0xaa] = .ok (.ret, [0xaa]) ∧
    decode [0x03, 0x2c, 0x34, 0x12] = .ok (.mov8RegSrc .a (.mem (.abs 0x1234)), []) := ⟨rfl, rfl⟩

/-- O6: a word of each length. -/
theorem witness_FirstWordTellsLength : decodeWords 0x2005 0x1234 = some .ret ∧
    decodeWords 0x2c03 0x1234 = some (.mov8RegSrc .a (.mem (.abs 0x1234))) := by decide

/-- O7: a state for each clause. -/
theorem witness_FetchStops :
    (∃ s : State, s.pc.getLsbD 0 = true) ∧
      (∃ s : State, s.pc.getLsbD 0 = false ∧ s.pc.toNat ∈ s.stored) ∧
      (∃ s : State, s.pc.getLsbD 0 = false ∧ s.pc.toNat + 1 ∈ s.stored) ∧
      (∃ s : State, s.pc.getLsbD 0 = false ∧ s.pc.toNat ∉ s.stored ∧ s.pc.toNat + 1 ∉ s.stored ∧
        decodeWords (codeWord s) 0 = none) ∧
      (∃ s : State, s.pc = 0xfffe ∧ s.pc.getLsbD 0 = false ∧ s.pc.toNat ∉ s.stored ∧ s.pc.toNat + 1 ∉ s.stored ∧
        decodeWords (codeWord s) 0 = some (.jumpSrc (.imm 0)) ∧ (Instr.jumpSrc (.imm 0)).words = 2) ∧
      ∃ s : State, s.pc ≠ 0xfffe ∧ s.pc.getLsbD 0 = false ∧ s.pc.toNat ∉ s.stored ∧ s.pc.toNat + 1 ∉ s.stored ∧
        decodeWords (codeWord s) 0 = some (.jumpSrc (.imm 0)) ∧ (Instr.jumpSrc (.imm 0)).words = 2 ∧
        s.pc.toNat + 3 ∈ s.stored :=
  ⟨⟨{ stateAt 0 [] with pc := 1 }, by decide⟩, ⟨{ stateAt 0 [] with stored := [0x200] }, by decide⟩,
    ⟨{ stateAt 0 [] with pc := 0xfffe, stored := [0xffff] }, by decide⟩,
    ⟨stateAt 0 [(0x201, 0x84)], by decide⟩, ⟨{ stateAt 0 [(0xfffe, 0x01), (0xffff, 0x20)] with pc := 0xfffe }, by decide⟩,
    ⟨{ stateAt 0 [(0xfffc, 0x01), (0xfffd, 0x20)] with pc := 0xfffc, stored := [0xffff] }, by decide⟩⟩

/-- O11, O12: a step from a state that meets the invariant, one that stores. -/
theorem witness_StepKeepsInvariant :
    ∃ s t : State, Invariant s ∧ step s = .next t ∧ s.mem.read 5 = 0x22 ∧ t.mem.read 5 = 0x11 ∧ 5 ∈ t.stored ∧ 6 ∉ t.stored :=
  ⟨{ stateRegs 0x11 0 0 0 0 0 0 0 [(5, 0x22), (0x200, 0x85), (0x201, 0x28)] with stored := [0x300] }, _,
    ⟨by decide, by decide, by decide⟩, rfl, by decide, by decide, by decide, by decide⟩

theorem witness_StepChangesOnlyStoredBytes : ∃ s t : State, step s = .next t ∧ 5 ∈ t.stored ∧ 6 ∉ t.stored :=
  ⟨{ stateRegs 0x11 0 0 0 0 0 0 0 [(5, 0x22), (0x200, 0x85), (0x201, 0x28)] with stored := [0x300] }, _, rfl,
    by decide, by decide⟩

/-- O13: a run of one step that stores, after which the next instruction is fetched. -/
theorem witness_ProgramTextIsFixed :
    ∃ s t : State, Sys2Proof.core.run 1 s = .next t ∧ fetch t = .ok (.branchAlways 0) ∧ t.mem.read 5 ≠ s.mem.read 5 :=
  ⟨stateRegs 0x11 0 0 0 0 0 0 0 [(5, 0x22), (0x200, 0x85), (0x201, 0x28)], _, rfl, rfl, by decide⟩

/-- O14: a pair apart from the register. -/
theorem witness_PairsViewRegisters : Reg16.dc ≠ Reg8.pair .a := by decide

/-- O15: an instruction that moves the stack pointer past the end of its page. -/
theorem witness_StackPointerUpperHalfIsOne : ∃ t : State, exec (.add8DestReg .sp .a)
    { stateRegs 1 0 0 0 0 0 0 0 [] with p := 0xff } = .next t ∧ t.p = 0 := ⟨_, rfl, by decide⟩

/-- O16: the last address that has a word, and the one that has none. -/
theorem witness_WordAccess : (0xfffe : Word) ≠ 0xffff ∧ (stateAt 0 [(0xffff, 1)]).mem.wf = true ∧ (0xffff : Word) = 0xffff := by
  decide

/-- O17, O18, O21: an index that is no half of the base; the two sizes. -/
theorem witness_RegisterIndirectForms : (0b00 : BitVec 2) ≠ (0b010 : BitVec 3).extractLsb' 1 2 ∧ (1 = 1 ∨ 1 = 2) ∧
    (2 = 1 ∨ 2 = 2) ∧ decodeMem 0b000011 0xffff = some (.abs 0xffff) ∧ decodeMem 0b111111 0 = some (.preDec .hg) := by decide

theorem witness_PointerForms : ((1 : Nat) = 1 ∨ (1 : Nat) = 2) ∧ ((2 : Nat) = 1 ∨ (2 : Nat) = 2) := by decide

/-- O20: a word operand at 0xfffe and one at 0xffff; a pop that is the last possible and one that is not possible. -/
theorem witness_WordSourceForms :
    memAddr (.abs 0xfffe) 2 State.reset ≠ 0xffff ∧ memAddr (.preDec .ba) 2 { State.reset with regs.a := 1 } = 0xffff ∧
      (stateAt 0xfe []).p ≠ 0xff ∧ (stateAt 0xff []).p = 0xff := by decide

/-- O21: the last byte and word that can be popped, and the first that cannot. -/
theorem witness_CountSourceForms : (stateAt 0xff []).p.toNat + 1 ≤ 256 ∧ (stateAt 0xfe []).p.toNat + 2 ≤ 256 ∧
    256 < (stateAt 0xff []).p.toNat + 2 := by decide

/-- O22, O23: an empty room on the stack, and the least there is. -/
theorem witness_ByteDestinationForms : (stateAt 0 []).p = 0 ∧ (stateAt 1 []).p ≠ 0 := by decide

theorem witness_WordDestinationForms : (stateAt 1 []).p.toNat < 2 ∧ 2 ≤ (stateAt 2 []).p.toNat ∧ (stateAt 0xff []).p = 0xff ∧
    (stateAt 0xfe []).p ≠ 0xff := by decide

/-- O25: an overlapping pointer for each clause. -/
theorem witness_PointerOverlapStops :
    byteSrcPointer (.mem (.postInc .ba)) = some (Reg8.pair .a) ∧ wordSrcPointer (.mem (.preDec .dc)) = some .dc ∧
      byteDestPointer (.mem (.preDec .hg)) = some (Reg8.pair .h) ∧ wordDestPointer (.mem (.postInc .fe)) = some .fe ∧
      src8Pointer (.mem (.postInc .fe)) = some (Reg8.pair .f) ∧ src8Pointer (.mem (.postInc .dc)) = some .dc ∧
      src8Pointer (.mem (.preDec .hg)) = some .hg := by decide

/-- O26: a popped byte and a word from memory. -/
theorem witness_MovRegSrcResult :
    (∃ s1, byteSrcPointer .pop ≠ some (Reg8.pair .a) ∧ evalByteSrc .pop (stateAt 0xff [(0x1ff, 0x12)]) = .ok (0x12, s1)) ∧
      ∃ s1, wordSrcPointer (.mem (.postInc .dc)) ≠ some Reg16.ba ∧
        evalWordSrc (encodeWord (.mov16RegSrc .ba (.mem (.postInc .dc)))) (.mem (.postInc .dc)) (stateAt 0 [(0, 0x12)]) =
          .ok (0x12, s1) :=
  ⟨⟨_, by decide, rfl⟩, _, by decide, rfl⟩

/-- O27: the lowest pushes, and the last word of memory. -/
theorem witness_MovDestRegResult :
    (∃ loc s1, (stateAt 1 []).mem.wf = true ∧ byteDestPointer .stack ≠ some (Reg8.pair .a) ∧
      evalByteDest .write .stack (stateAt 1 []) = .ok (loc, s1)) ∧
      (∃ loc s1, (stateAt 2 []).mem.wf = true ∧ wordDestPointer .stack ≠ some Reg16.ba ∧
        evalWordDest .write .stack (stateAt 2 []) = .ok (loc, s1) ∧ wordLocOk loc) ∧
      ∃ s1, evalWordDest .write (.mem (.abs 0xfffe)) (stateAt 2 []) = .ok (.mem 0xfffe, s1) ∧ wordLocOk (.mem 0xfffe) :=
  ⟨⟨_, _, by decide, by decide, rfl⟩, ⟨.mem 0x100, _, by decide, by decide, rfl, by simp [wordLocOk]⟩, _, rfl, by simp [wordLocOk]⟩

/-- O30, O33, O39, O54: a memory in canonical form that is not empty. -/
theorem witness_MovZpRegResult : (stateAt 0 [(0, 1), (0xffff, 2)]).mem.wf = true := by decide

theorem witness_SwapZpRegResult : (stateAt 0 [(0, 1), (0xffff, 2)]).mem.wf = true := by decide

theorem witness_BinopZpRegResult : (stateAt 0 [(0, 1), (0xffff, 2)]).mem.wf = true := by decide

/-- O32: the last byte of the page, a byte moved past with a pointer, and the last word of the page. -/
theorem witness_SwapDestRegResult :
    (∃ loc s1, (stateAt 0xff []).mem.wf = true ∧ byteDestPointer .stack ≠ some (Reg8.pair .a) ∧
      evalByteDest .modify .stack (stateAt 0xff []) = .ok (loc, s1)) ∧
      ∃ loc s1, (stateAt 0xfe []).mem.wf = true ∧ wordDestPointer .stack ≠ some Reg16.ba ∧
        evalWordDest .modify .stack (stateAt 0xfe []) = .ok (loc, s1) ∧ wordLocOk loc :=
  ⟨⟨_, _, by decide, by decide, rfl⟩, .mem 0x1fe, _, by decide, by decide, rfl, by simp [wordLocOk]⟩

/-- O34: a stepped pointer beside another register. -/
theorem witness_ByteBinopRegSrcResult : ∃ s1, byteSrcPointer (.mem (.preDec .dc)) ≠ some (Reg8.pair .a) ∧
    evalByteSrc (.mem (.preDec .dc)) (stateAt 0 [(0xffff, 0x12)]) = .ok (0x12, s1) := ⟨_, by decide, rfl⟩

/-- O35: the word at the last address that has one. -/
theorem witness_WordBinopRegSrcResult : ∃ s1, wordSrcPointer (.mem (.preDec .dc)) ≠ some Reg16.ba ∧
    evalWordSrc (encodeWord (.add16RegSrc .ba (.mem (.preDec .dc)))) (.mem (.preDec .dc))
      (stateAt 0 [(0xfffe, 0x12), (0xffff, 0x34)]) = .ok (0x3412, s1) := ⟨_, by decide, rfl⟩

/-- O40: `flags`, and the last byte of memory. -/
theorem witness_ByteBinopDestRegResult : ∃ s1, (.mem (.preDec .dc) : ByteDest) ≠ .flags ∧ (stateAt 0 []).mem.wf = true ∧
    byteDestPointer (.mem (.preDec .dc)) ≠ some (Reg8.pair .a) ∧
    evalByteDest .modify (.mem (.preDec .dc)) (stateAt 0 []) = .ok (.mem 0xffff, s1) := ⟨_, by decide, by decide, by decide, rfl⟩

/-- O41: the last word of memory, and `sp`. -/
theorem witness_WordBinopDestRegResult :
    (∃ s1, (stateAt 0 []).mem.wf = true ∧ wordDestPointer (.mem (.preDec .dc)) ≠ some Reg16.ba ∧
      evalWordDest .modify (.mem (.preDec .dc)) (stateAt 0 []) = .ok (.mem 0xfffe, s1) ∧ wordLocOk (.mem 0xfffe)) ∧
      ∃ s1, evalWordDest .modify .sp (stateAt 0 []) = .ok (.sp, s1) ∧ wordLocOk .sp :=
  ⟨⟨_, by decide, by decide, rfl, by simp [wordLocOk]⟩, _, rfl, trivial⟩

/-- O42: a byte and a word source. -/
theorem witness_CompareSrcFlags :
    (∃ s1, byteSrcPointer (.mem (.postInc .dc)) ≠ some (Reg8.pair .a) ∧
      evalByteSrc (.mem (.postInc .dc)) (stateAt 0 [(0, 7)]) = .ok (7, s1)) ∧
      ∃ s1, wordSrcPointer (.mem (.postInc .dc)) ≠ some Reg16.ba ∧ (∀ q, (.mem (.postInc .dc) : WordSrc) ≠ .ext q) ∧
        evalWordSrc (encodeWord (.cmp16RegSrc .ba (.mem (.postInc .dc)))) (.mem (.postInc .dc)) (stateAt 0 [(0, 7)]) =
          .ok (7, s1) :=
  ⟨⟨_, by decide, rfl⟩, _, by decide, by simp, rfl⟩

/-- O44: two bytes that compare differently as signed and as unsigned numbers, and a word at the last address that has one. -/
theorem witness_ConditionsAfterCompare :
    (∃ s1, byteSrcPointer (.mem (.preDec .dc)) ≠ some (Reg8.pair .a) ∧
      evalByteSrc (.mem (.preDec .dc)) (stateAt 0 [(0xffff, 0x80)]) = .ok (0x80, s1)) ∧
      ∃ s1, wordSrcPointer (.mem (.preDec .dc)) ≠ some Reg16.ba ∧ (∀ q, (.mem (.preDec .dc) : WordSrc) ≠ .ext q) ∧
        evalWordSrc (encodeWord (.cmp16RegSrc .ba (.mem (.preDec .dc)))) (.mem (.preDec .dc))
          (stateAt 0 [(0xffff, 0x80)]) = .ok (0x8000, s1) :=
  ⟨⟨_, by decide, rfl⟩, _, by decide, by simp, rfl⟩

/-- O45, O46, O47: a count from memory and one that needs no step. -/
theorem witness_ByteShiftSrcResult : ∃ s1, src8Pointer (.mem (.postInc .dc)) ≠ some (Reg8.pair .a) ∧
    evalSrc8 1 (.mem (.postInc .dc)) (stateAt 0 [(0, 9)]) = .ok (9, s1) := ⟨_, by decide, rfl⟩

theorem witness_WordShiftSrcResult : ∃ s1, src8Pointer (.mem (.abs 0xffff)) ≠ some Reg16.ba ∧
    evalSrc8 src8StepWord (.mem (.abs 0xffff)) (stateAt 0 [(0xffff, 0x1f)]) = .ok (0x1f, s1) := ⟨_, by decide, rfl⟩

theorem witness_ShiftCounts : (∃ s1, src8Pointer .pop ≠ some (Reg8.pair .a) ∧
    evalSrc8 1 .pop (stateAt 0xff [(0x1ff, 0xf8)]) = .ok (0xf8, s1)) ∧
      ∃ s1, src8Pointer .sp ≠ some Reg16.ba ∧ evalSrc8 src8StepWord .sp (stateAt 0xff []) = .ok (0xff, s1) :=
  ⟨⟨_, by decide, rfl⟩, _, by decide, rfl⟩

/-- O49, O50: a multiplier from memory, its pointer apart from `reg` and from `h`. -/
theorem witness_ByteMulResult : ∃ s1, src8Pointer (.mem (.postInc .fe)) ≠ some (Reg8.pair .c) ∧
    src8Pointer (.mem (.postInc .fe)) ≠ some .hg ∧ evalSrc8 1 (.mem (.postInc .fe)) (stateAt 0 [(0, 0xff)]) = .ok (0xff, s1) :=
  ⟨_, by decide, by decide, rfl⟩

theorem witness_WordMulResult : ∃ s1, src8Pointer (.reg .h) ≠ some Reg16.dc ∧ src8Pointer (.reg .h) ≠ some .hg ∧
    evalSrc8 src8StepWord (.reg .h) (stateRegs 0 0 0 0 0 0 0 0xff []) = .ok (0xff, s1) := ⟨_, by decide, by decide, rfl⟩

/-- O51, O52, O53: each way of a branch. -/
theorem witness_BranchOnOneFlag : ∃ s u : State, s.flags.z = true ∧ ¬ u.flags.z = true :=
  ⟨{ State.reset with flags := { z := true, s := false, v := false, c := false } }, State.reset, by decide, by decide⟩

theorem witness_BranchOnTwoFlags : ∃ s u : State, (s.flags.c = true ∧ s.flags.z = false) ∧ ¬ (u.flags.c = true ∧ u.flags.z = false) :=
  ⟨{ State.reset with flags := { z := false, s := false, v := false, c := true } }, State.reset, by decide, by decide⟩

theorem witness_BranchAlwaysResult : (0 : BitVec 8) = 0 := rfl

/-- O54: no room, and the least room. -/
theorem witness_BranchCallResult : (stateAt 1 []).p.toNat < 2 ∧ 2 ≤ (stateAt 2 [(0x100, 1)]).p.toNat ∧
    (stateAt 2 [(0x100, 1)]).mem.wf = true := by decide

/-- O55: an even and an odd target, from an operand and from the zero page. -/
theorem witness_JumpResult :
    (∃ s1, evalWordSrc (encodeWord (.jumpSrc (.imm 0xfffe))) (.imm 0xfffe) State.reset = .ok (0xfffe, s1) ∧
      (0xfffe : Word).getLsbD 0 = false) ∧
      (∃ s1, evalWordSrc (encodeWord (.jumpSrc (.imm 0xffff))) (.imm 0xffff) State.reset = .ok (0xffff, s1) ∧
        (0xffff : Word).getLsbD 0 = true) ∧
      (∃ s : State, (0x0400 : Word) = joinBytes (s.mem.read (2 * (127 : BitVec 7).toNat + 1)) (s.mem.read (2 * (127 : BitVec 7).toNat)) ∧
        (0x0400 : Word).getLsbD 0 = false) ∧
      ∃ s : State, (0x0401 : Word) = joinBytes (s.mem.read (2 * (0 : BitVec 7).toNat + 1)) (s.mem.read (2 * (0 : BitVec 7).toNat)) ∧
        (0x0401 : Word).getLsbD 0 = true :=
  ⟨⟨_, rfl, by decide⟩, ⟨_, rfl, by decide⟩, ⟨stateAt 0 [(255, 4)], by decide⟩, ⟨stateAt 0 [(0, 1), (1, 4)], by decide⟩⟩

/-- O56: no room, the least room with an odd and with an even target. -/
theorem witness_CallResult :
    ((.pop : WordSrc) = .pop ∨ (.pop : WordSrc) = .sp) ∧ ((.sp : WordSrc) = .pop ∨ (.sp : WordSrc) = .sp) ∧
      (.imm 0x400 : WordSrc) ≠ .pop ∧ (.imm 0x400 : WordSrc) ≠ .sp ∧
      (∀ p, ∃ s1, evalWordSrc (encodeWord (.callSrc (.imm 0x400))) (.imm 0x400) (stateAt p [(0x100, 1)]) = .ok (0x400, s1)) ∧
      (∃ s1, (.imm 0x401 : WordSrc) ≠ .pop ∧ (.imm 0x401 : WordSrc) ≠ .sp ∧
        evalWordSrc (encodeWord (.callSrc (.imm 0x401))) (.imm 0x401) (stateAt 2 []) = .ok (0x401, s1)) ∧
      (stateAt 1 [(0x100, 1)]).p.toNat < 2 ∧ 2 ≤ (stateAt 2 [(0x100, 1)]).p.toNat ∧ (stateAt 2 [(0x100, 1)]).mem.wf = true ∧
      (0x400 : Word).getLsbD 0 = false ∧ (0x401 : Word).getLsbD 0 = true :=
  ⟨by decide, by decide, by decide, by decide, fun _ => ⟨_, rfl⟩, ⟨_, by decide, by decide, rfl⟩, by decide, by decide,
    by decide, by decide, by decide⟩

/-- O57: an empty page, and the last word of the page, odd and even. -/
theorem witness_RetResult : 0xfe < (stateAt 0xff []).p.toNat ∧
    (∃ s : State, s.p.toNat ≤ 0xfe ∧ (0x0208 : Word) = joinBytes (s.mem.read (0x101 + s.p.toNat)) (s.mem.read (0x100 + s.p.toNat)) ∧
      (0x0208 : Word).getLsbD 0 = false) ∧
    ∃ s : State, s.p.toNat ≤ 0xfe ∧ (0x0209 : Word) = joinBytes (s.mem.read (0x101 + s.p.toNat)) (s.mem.read (0x100 + s.p.toNat)) ∧
      (0x0209 : Word).getLsbD 0 = true :=
  ⟨by decide, ⟨stateAt 0xfe [(0x1fe, 0x08), (0x1ff, 0x02)], by decide⟩, ⟨stateAt 0xfe [(0x1fe, 0x09), (0x1ff, 0x02)], by decide⟩⟩

/-- O58: a call of either kind with the least room. -/
theorem witness_ReturnAfterCall :
    (∃ s t : State, Invariant s ∧ s.p = 2 ∧ exec (.callSrc (.imm 0x400)) s = .next t) ∧
      ∃ s t : State, Invariant s ∧ s.p = 2 ∧ exec (.branchCall 5) s = .next t :=
  ⟨⟨stateAt 2 [], _, ⟨by decide, by decide, by decide⟩, rfl, rfl⟩, stateAt 2 [], _, ⟨by decide, by decide, by decide⟩, rfl, rfl⟩

/-- O59: an operand that cannot be evaluated, for each clause. -/
theorem witness_RefusedOperandStops :
    (wordSrcPointer .pop ≠ some Reg16.ba ∧ evalWordSrc (encodeWord (.add16RegSrc .ba .pop)) .pop (stateAt 0xff []) = .error .stackWrap) ∧
      (byteDestPointer .stack ≠ some (Reg8.pair .a) ∧ evalByteDest .write .stack (stateAt 0 []) = .error .stackWrap) ∧
      (wordDestPointer .stack ≠ some Reg16.ba ∧ evalWordDest .modify .stack (stateAt 0xff []) = .error .stackWrap) ∧
      (∃ s1, wordDestPointer (.mem (.abs 0xffff)) ≠ some Reg16.ba ∧
        evalWordDest .modify (.mem (.abs 0xffff)) (stateAt 0 []) = .ok (.mem 0xffff, s1)) ∧
      evalWordDest .write .stack (stateAt 1 []) = .error .stackWrap ∧
      (∃ s1, evalWordDest .write (.mem (.abs 0xffff)) (stateAt 0 []) = .ok (.mem 0xffff, s1)) ∧
      (stateAt 0xff []).p = 0xff ∧
      evalWordSrc (encodeWord (.jumpSrc (.mem (.abs 0xffff)))) (.mem (.abs 0xffff)) (stateAt 0 []) = .error .accessWrap ∧
      ((.mem (.abs 0xffff) : WordSrc) ≠ .pop ∧
        evalWordSrc (encodeWord (.callSrc (.mem (.abs 0xffff)))) (.mem (.abs 0xffff)) (stateAt 0 []) = .error .accessWrap) :=
  ⟨⟨by decide, rfl⟩, ⟨by decide, rfl⟩, ⟨by decide, rfl⟩, ⟨_, by decide, rfl⟩, rfl, ⟨_, rfl⟩, rfl, rfl, by decide, rfl⟩

/-- O60: both excluded registers, and the first and last word of each slot. -/
theorem witness_MulHasNoFirstPair : (Reg8.a = .a ∨ Reg8.a = .b) ∧ (Reg8.b = .a ∨ Reg8.b = .b) ∧
    (0x2000 : Word).extractLsb' 7 9 = 0b001000000#9 ∧ (0x207f : Word).extractLsb' 7 9 = 0b001000000#9 ∧
    (0x1000 : Word).extractLsb' 7 9 = 0b000100000#9 ∧ (0x107f : Word).extractLsb' 7 9 = 0b000100000#9 := by decide

end Sys2Proof.Tests
end

/-! ### The stack pointer (R22) -/

namespace Sys2Proof.Machine

theorem State.sp_toNat (s : State) : s.sp.toNat = 0x0100 + s.p.toNat := stackAddr_toNat s.p

/-- The upper half holds no state (R22): the state keeps `p` only, so whatever an instruction writes to `sp` ends in the lower half. -/
@[simp] theorem State.hiByte_sp (s : State) : hiByte s.sp = 1 := hiByte_stackAddr s.p

/-- Settles O15: `sp` is a view of `p`, so the fact about the answered state is the one about every state. -/
theorem stackPointerUpperHalfIsOne : Obligations.StackPointerUpperHalfIsOne :=
  ⟨State.sp_toNat, fun _ _ t _ => t.hiByte_sp⟩

end Sys2Proof.Machine

/-! ### The registers of `mul` (R73, R204) -/

namespace Sys2Proof

/-- The pair that holds the `reg` of a `mul`; no other instruction has one. -/
def Instr.mulPair : Instr → Option Reg16
  | .mul8RegSrc8 r _ | .mul8RegImm r _ => some r.pair
  | .mul16RegSrc8 k _ | .mul16RegImm k _ => some k
  | _ => none

/-- What the decoder answers is no `mul`. -/
def NoMul (o : Option Instr) : Prop := ∀ i ∈ o, i.mulPair = none

theorem noMul_some {i : Instr} : NoMul (some i) ↔ i.mulPair = none := by simp [NoMul]

theorem noMul_map {α : Type} {o : Option α} {f : α → Instr} (h : ∀ a, (f a).mulPair = none) : NoMul (o.map f) :=
  Option.forall_mem_map.mpr fun a _ => h a

theorem noMul_bind {α : Type} {o : Option α} {f : α → Option Instr} (h : ∀ a, NoMul (f a)) : NoMul (o.bind f) := by
  intro i hi
  obtain ⟨a, -, hi⟩ := Option.mem_bind_iff.mp hi
  exact h a i hi

/-! No row of the `aaa` columns, of `shift reg, imm4` or of form B is a `mul` (R67 to R72, R75). -/

section
variable (aaa : BitVec 3) (op : BitVec 6) (imm : Word) (zp : BitVec 7) (r r' : Reg8) (k k' : Reg16)

theorem binop8RegSrc_mulPair (src : ByteSrc) : (binop8RegSrc aaa r src).mulPair = none := by
  unfold binop8RegSrc; split <;> rfl

theorem binop8RegImm_mulPair : (binop8RegImm aaa r op).mulPair = none := by
  unfold binop8RegImm; split <;> rfl

theorem binop8RegZp_mulPair : (binop8RegZp aaa r zp).mulPair = none := by
  unfold binop8RegZp; split <;> rfl

theorem binop8ZpReg_mulPair : (binop8ZpReg aaa zp r).mulPair = none := by
  unfold binop8ZpReg; split <;> rfl

theorem alternate8_noMul : NoMul (alternate8 aaa r r') := by
  unfold alternate8; split <;> simp [NoMul, Instr.mulPair]

theorem binop8DestReg_noMul (dst : ByteDest) : NoMul (binop8DestReg aaa dst r) := by
  unfold binop8DestReg; split <;> simp [NoMul, Instr.mulPair]

theorem shift8RegSrc8_noMul : NoMul (shift8RegSrc8 aaa r op imm) := by
  unfold shift8RegSrc8
  split
  case h_2 | h_4 | h_6 => exact noMul_some.mpr rfl
  all_goals exact noMul_map fun _ => rfl

theorem shift8RegImm_mulPair : (shift8RegImm op r).mulPair = none := by
  unfold shift8RegImm; split <;> rfl

theorem binop16RegSrc_mulPair (src : WordSrc) : (binop16RegSrc aaa k src).mulPair = none := by
  unfold binop16RegSrc; split <;> rfl

theorem binop16RegImm_mulPair : (binop16RegImm aaa k op).mulPair = none := by
  unfold binop16RegImm; split <;> rfl

theorem binop16RegZp_mulPair : (binop16RegZp aaa k zp).mulPair = none := by
  unfold binop16RegZp; split <;> rfl

theorem binop16ZpReg_mulPair : (binop16ZpReg aaa zp k).mulPair = none := by
  unfold binop16ZpReg; split <;> rfl

theorem alternate16_noMul : NoMul (alternate16 aaa k k') := by
  unfold alternate16; split <;> simp [NoMul, Instr.mulPair]

theorem binop16DestReg_noMul (dst : WordDest) : NoMul (binop16DestReg aaa dst k) := by
  unfold binop16DestReg; split <;> simp [NoMul, Instr.mulPair]

theorem shift16RegSrc8_noMul : NoMul (shift16RegSrc8 aaa k op imm) := by
  unfold shift16RegSrc8
  split
  case h_2 | h_4 | h_6 => exact noMul_some.mpr rfl
  all_goals exact noMul_map fun _ => rfl

theorem shift16RegImm_mulPair : (shift16RegImm op k).mulPair = none := by
  unfold shift16RegImm; split <;> rfl

theorem branchOf_mulPair (cccc : BitVec 4) (target : BitVec 8) : (branchOf cccc target).mulPair = none := by
  unfold branchOf; split <;> rfl

end

/-! ### The five major forms -/

theorem decodeBinop8_noMul (w imm : Word) : NoMul (decodeBinop8 w imm) := by
  unfold decodeBinop8
  split
  · exact noMul_map (binop8RegSrc_mulPair _ _)
  · exact noMul_some.mpr (binop8RegImm_mulPair _ _ _)
  · split
    · exact noMul_map fun _ => rfl
    · split
      · exact alternate8_noMul _ _ _
      · exact noMul_bind (binop8DestReg_noMul _ _)
  · exact shift8RegSrc8_noMul _ _ _ _
  · exact noMul_some.mpr (binop8RegZp_mulPair _ _ _)
  · exact noMul_some.mpr (binop8ZpReg_mulPair _ _ _)

theorem decodeBinop16_noMul (w imm : Word) : NoMul (decodeBinop16 w imm) := by
  unfold decodeBinop16
  split
  · exact noMul_map (binop16RegSrc_mulPair _ _)
  · exact noMul_some.mpr (binop16RegImm_mulPair _ _ _)
  · split
    · exact noMul_map fun _ => rfl
    · split
      · exact alternate16_noMul _ _ _
      · exact noMul_bind (binop16DestReg_noMul _ _)
  · exact shift16RegSrc8_noMul _ _ _ _
  · exact noMul_some.mpr (binop16RegZp_mulPair _ _ _)
  · exact noMul_some.mpr (binop16ZpReg_mulPair _ _ _)

/-- Of form m, only the words of the `mul/jumps` slot can be a `mul` (R73). -/
theorem decodeOther8_eq_mulJump_or_noMul (w imm : Word) :
    decodeOther8 w imm = decodeMulJump8 w imm ∨ NoMul (decodeOther8 w imm) := by
  unfold decodeOther8
  split
  · exact .inr (noMul_some.mpr rfl)
  · exact .inl rfl
  · exact .inr (noMul_some.mpr rfl)
  · exact .inr (noMul_map fun _ => rfl)
  · exact .inr (noMul_some.mpr (shift8RegImm_mulPair _ _))
  · split
    · exact .inr (noMul_some.mpr rfl)
    · exact .inr (noMul_map fun _ => rfl)
  · exact .inr (noMul_map fun _ => rfl)
  · exact .inr (noMul_some.mpr rfl)
  · exact .inr (noMul_some.mpr rfl)

/-- Of form M, only the words of the `mul/jumps` slot can be a `mul` (R73). -/
theorem decodeOther16_eq_mulJump_or_noMul (w imm : Word) :
    decodeOther16 w imm = decodeMulJump16 w imm ∨ NoMul (decodeOther16 w imm) := by
  unfold decodeOther16
  split
  · exact .inr (noMul_some.mpr rfl)
  · exact .inl rfl
  · exact .inr (noMul_some.mpr rfl)
  · exact .inr (noMul_map fun _ => rfl)
  · exact .inr (noMul_some.mpr (shift16RegImm_mulPair _ _))
  · split
    · exact .inr (noMul_some.mpr rfl)
    · exact .inr (noMul_map fun _ => rfl)
  · exact .inr (noMul_map fun _ => rfl)
  · exact .inr (noMul_some.mpr rfl)
  · exact .inr (noMul_some.mpr rfl)

/-! ### The `mul/jumps` slot: a `mul` exactly where `rr` is not 0 -/

/-- `rr` is the number of the pair that `r8[{rr, low}]` is a half of (R17, R66). -/
theorem pair_reg8OfNum_append (rr : BitVec 2) (low : BitVec 1) : (reg8OfNum (rr ++ low)).pair = reg16OfNum rr := by
  revert rr low; decide

/-- With `rr` = 0 the slot of form m holds the absolute jumps and the unassigned words (R74, R82). -/
theorem decodeMulJump8_noMul {w : Word} (hrr : fieldRr w = 0) (imm : Word) : NoMul (decodeMulJump8 w imm) := by
  unfold decodeMulJump8
  rw [if_neg (not_not.mpr hrr)]
  split
  · exact noMul_some.mpr rfl
  · split
    · exact noMul_map fun _ => rfl
    · split
      · exact noMul_some.mpr rfl
      · exact noMul_map fun _ => rfl

/-- With another `rr`, the `mul` of form m has a half of pair `rr` as `reg` (R66, R73). -/
theorem decodeMulJump8_mulPair {w imm : Word} {i : Instr} (hrr : fieldRr w ≠ 0) (h : decodeMulJump8 w imm = some i) :
    i.mulPair = some (reg16OfNum (fieldRr w)) := by
  unfold decodeMulJump8 at h
  rw [if_pos hrr] at h
  split at h
  · cases h
    exact congrArg some (pair_reg8OfNum_append _ _)
  · obtain ⟨src, -, rfl⟩ := Option.map_eq_some_iff.mp h
    exact congrArg some (pair_reg8OfNum_append _ _)

/-- With `rr` = 0 the slot of form M holds `jump [zp]` (R74). -/
theorem decodeMulJump16_noMul {w : Word} (hrr : fieldRr w = 0) (imm : Word) : NoMul (decodeMulJump16 w imm) := by
  unfold decodeMulJump16
  rw [if_neg (not_not.mpr hrr)]
  exact noMul_some.mpr rfl

/-- With another `rr`, the `mul` of form M has pair `rr` as `reg` (R66, R73). -/
theorem decodeMulJump16_mulPair {w imm : Word} {i : Instr} (hrr : fieldRr w ≠ 0) (h : decodeMulJump16 w imm = some i) :
    i.mulPair = some (reg16OfNum (fieldRr w)) := by
  unfold decodeMulJump16 at h
  rw [if_pos hrr] at h
  split at h
  · cases h; rfl
  · obtain ⟨src, -, rfl⟩ := Option.map_eq_some_iff.mp h; rfl

/-- Every word that decodes to a `mul` is one of the `mul/jumps` slot. -/
theorem decodeWords_eq_mulJump_or_noMul (w imm : Word) : decodeWords w imm = decodeMulJump8 w imm ∨
    decodeWords w imm = decodeMulJump16 w imm ∨ NoMul (decodeWords w imm) := by
  unfold decodeWords
  split
  · exact .inr (.inr (decodeBinop8_noMul w imm))
  · split
    · exact .inr (.inr (decodeBinop16_noMul w imm))
    · split
      · exact (decodeOther8_eq_mulJump_or_noMul w imm).imp_right .inr
      · split
        · exact .inr (decodeOther16_eq_mulJump_or_noMul w imm)
        · exact .inr (.inr (noMul_some.mpr (branchOf_mulPair _ _)))

/-- The `reg` of a decoded `mul` is pair `rr` or a half of it, and `rr` is not 0 (R73). -/
theorem mulPair_of_decodeWords {w imm : Word} {i : Instr} {k : Reg16} (h : decodeWords w imm = some i)
    (hk : i.mulPair = some k) : fieldRr w ≠ 0 ∧ k = reg16OfNum (fieldRr w) := by
  have isMul : ¬ NoMul (some i) := fun hn => by cases hk.symm.trans (noMul_some.mp hn)
  rcases decodeWords_eq_mulJump_or_noMul w imm with h8 | h16 | hn
  · rw [h8] at h
    have hrr : fieldRr w ≠ 0 := fun e => isMul (h ▸ decodeMulJump8_noMul e imm)
    exact ⟨hrr, Option.some.inj (hk.symm.trans (decodeMulJump8_mulPair hrr h))⟩
  · rw [h16] at h
    have hrr : fieldRr w ≠ 0 := fun e => isMul (h ▸ decodeMulJump16_noMul e imm)
    exact ⟨hrr, Option.some.inj (hk.symm.trans (decodeMulJump16_mulPair hrr h))⟩
  · exact absurd (h ▸ hn) isMul

/-- Only pair 0 may not hold the `reg` of a `mul`. -/
theorem mulOk_reg16OfNum {rr : BitVec 2} (h : rr ≠ 0) : (reg16OfNum rr).mulOk = true := by
  revert rr; decide

/-- What decodes has no `mul` with a register that `Instr.wf` does not allow (R204). -/
theorem mulOk_of_decodeWords {w imm : Word} {i : Instr} {k : Reg16} (h : decodeWords w imm = some i)
    (hk : i.mulPair = some k) : k.mulOk = true := by
  obtain ⟨hrr, rfl⟩ := mulPair_of_decodeWords h hk
  exact mulOk_reg16OfNum hrr

/-! ### The words with `rr` = 0 (R74) -/

theorem decodeMem_none {op : BitVec 6} {imm : Word} (h : decodeMem op imm = none) :
    op.getLsbD 5 = false ∧ op.getLsbD 4 = false ∧ op ≠ 0b000011 := by
  unfold decodeMem at h
  split at h
  · split at h
    · split at h <;> cases h
    · cases h
  · next h5 =>
    split at h
    · cases h
    · next h4 =>
      split at h
      · cases h
      · next h3 => exact ⟨eq_false_of_ne_true h5, eq_false_of_ne_true h4, h3⟩

/-- The codes that are no memory form are taken by the registers, `imm16`, `[pop]` and `sp` (R78). -/
theorem wordSrc_code_cases {op : BitVec 6} (h5 : op.getLsbD 5 = false) (h4 : op.getLsbD 4 = false) (h3 : op ≠ 0b000011) :
    isByteReg op = true ∨ isWordReg op = true ∨ op = 0b000001 ∨ op = 0b000101 ∨ op = 0b000111 := by
  revert op; decide

/-- No operand code is without a meaning as a 16-bit source (R79). -/
theorem exists_decodeWordSrc (op : BitVec 6) (imm : Word) : ∃ src, decodeWordSrc op imm = some src := by
  unfold decodeWordSrc
  split
  · exact ⟨_, rfl⟩
  split
  · exact ⟨_, rfl⟩
  split
  · exact ⟨_, rfl⟩
  split
  · exact ⟨_, rfl⟩
  split
  · exact ⟨_, rfl⟩
  next hb hw himm hpop hsp =>
  cases hm : decodeMem op imm with
  | some m => exact ⟨_, rfl⟩
  | none =>
    obtain ⟨h5, h4, h3⟩ := decodeMem_none hm
    rcases wordSrc_code_cases h5 h4 h3 with h | h | h | h | h
    exacts [absurd h hb, absurd h hw, absurd h himm, absurd h hpop, absurd h hsp]

theorem word_eq_of_top {w : Word} {c : BitVec 9} (h : w.extractLsb' 7 9 = c) : w = c ++ fieldZp w := by
  subst h
  exact (BitVec.extractLsb'_append_extractLsb' (w := 9) (len := 7)).symm

/-- Bit `z` tells the jumps of form m from the calls (R74). -/
theorem zp_cases (zp : BitVec 7) : ∃ op : BitVec 6, zp = 0#1 ++ op ∨ zp = 1#1 ++ op := by
  refine ⟨zp.extractLsb' 0 6, ?_⟩
  revert zp; decide

theorem decodeWords_absoluteJump {w : Word} (h : w.extractLsb' 7 9 = 0b001000000#9) (imm : Word) :
    (∃ src, decodeWords w imm = some (.jumpSrc src)) ∨ (∃ src, decodeWords w imm = some (.callSrc src)) ∨
      decodeWords w imm = some .ret := by
  obtain ⟨op, hz | hz⟩ := zp_cases (fieldZp w)
  · have hw : w = 0b0010000000#10 ++ op := by
      rw [word_eq_of_top h, hz]; exact (BitVec.append_assoc (x₁ := 0b001000000#9) (x₂ := 0#1) (x₃ := op)).symm
    by_cases hpop : op = 0b000101
    · subst hpop hw
      exact .inr (.inr (decodeWords_ret imm))
    · obtain ⟨src, hsrc⟩ := exists_decodeWordSrc op imm
      exact .inl ⟨src, by rw [hw, decodeWords_jump _ _ hpop, hsrc]; rfl⟩
  · have hw : w = 0b0010000001#10 ++ op := by
      rw [word_eq_of_top h, hz]; exact (BitVec.append_assoc (x₁ := 0b001000000#9) (x₂ := 1#1) (x₃ := op)).symm
    obtain ⟨src, hsrc⟩ := exists_decodeWordSrc op imm
    exact .inr (.inl ⟨src, by rw [hw, decodeWords_call, hsrc]; rfl⟩)

theorem decodeWords_jumpZp_of_top {w : Word} (h : w.extractLsb' 7 9 = 0b000100000#9) (imm : Word) :
    decodeWords w imm = some (.jumpZp (fieldZp w)) :=
  (congrArg (decodeWords · imm) (word_eq_of_top h)).trans (decodeWords_jumpZp (fieldZp w) imm)

/-- Settles O60: a decoded `mul` has its `reg` in a pair other than `ba`, and the words with `rr` = 0 are the jumps. -/
theorem mulHasNoFirstPair : Obligations.MulHasNoFirstPair := by
  intro w imm
  have noBa {i : Instr} (hi : i.mulPair = some .ba) : decodeWords w imm ≠ some i :=
    fun h => Bool.noConfusion (mulOk_of_decodeWords h hi)
  refine ⟨fun src imm6 r hr => ?_, fun src imm6 => ⟨noBa rfl, noBa rfl⟩, fun h => decodeWords_absoluteJump h imm,
    fun h => ⟨fieldZp w, decodeWords_jumpZp_of_top h imm⟩⟩
  have hpair : some r.pair = some .ba := by rcases hr with rfl | rfl <;> rfl
  exact ⟨noBa hpair, noBa hpair⟩

end Sys2Proof

/-! ### What every step does (R21, R52) -/

namespace Sys2Proof.Machine

theorem storeByte_advance_lawful (s : State) (a : Word) (v : Byte) (words : Nat) :
    Lawful s ((s.storeByte a v).advance words) :=
  lawful_advance (grows_storeByte s a v) rfl words

theorem setReg8_advance_lawful {s u : State} (g : Grows s u) (hpc : u.pc = s.pc) (r : Reg8) (v : Byte) (words : Nat) :
    Lawful s ((u.setReg8 r v).advance words) :=
  have ⟨g', e⟩ := lawful_setReg8 g hpc r v
  lawful_advance g' e words

theorem setReg16_advance_lawful {s u : State} (g : Grows s u) (hpc : u.pc = s.pc) (k : Reg16) (v : Word) (words : Nat) :
    Lawful s ((u.setReg16 k v).advance words) :=
  have ⟨g', e⟩ := lawful_setReg16 g hpc k v
  lawful_advance g' e words

theorem leaveFlags_advance_lawful {s u : State} (g : Grows s u) (hpc : u.pc = s.pc) (a : FlagsAfterGroup) (words : Nat) :
    Lawful s ((u.leaveFlags a).advance words) :=
  lawful_advance (u := u.leaveFlags a) (g.trans (.of_eq rfl rfl)) hpc words

theorem execNot8RegReg_lawful {r1 r2 : Reg8} {s t : State} (h : execNot8RegReg r1 r2 s = .next t) : Lawful s t := by
  cases h
  obtain ⟨g, e⟩ := lawful_setReg8 (Quiet.refl s).grows rfl r1 (~~~(s.reg8 r2))
  exact leaveFlags_advance_lawful g e _ _

theorem execNot16RegReg_lawful {r1 r2 : Reg16} {s t : State} (h : execNot16RegReg r1 r2 s = .next t) : Lawful s t := by
  cases h
  obtain ⟨g, e⟩ := lawful_setReg16 (Quiet.refl s).grows rfl r1 (~~~(s.reg16 r2))
  exact leaveFlags_advance_lawful g e _ _

theorem execSwap8ZpReg_lawful {zp : BitVec 7} {r : Reg8} {s t : State} (h : execSwap8ZpReg zp r s = .next t) :
    Lawful s t := by
  cases h
  exact setReg8_advance_lawful (grows_storeByte _ _ _) rfl _ _ _

theorem execSwap16ZpReg_lawful {zp : BitVec 7} {r : Reg16} {s t : State} (h : execSwap16ZpReg zp r s = .next t) :
    Lawful s t := by
  simp only [execSwap16ZpReg, readWord_zp] at h
  split at h
  · cases h
  · next e =>
    cases h
    exact setReg16_advance_lawful (grows_storeWord e) (storeWord_pc e) _ _ _

theorem execMov16RegZp_lawful {zp : BitVec 7} {r : Reg16} {s t : State} (h : execMov16RegZp r zp s = .next t) :
    Lawful s t := by
  simp only [execMov16RegZp, readWord_zp] at h
  cases h
  exact setReg16_advance_lawful (Quiet.refl s).grows rfl _ _ _

theorem execMov16ZpReg_lawful {zp : BitVec 7} {r : Reg16} {s t : State} (h : execMov16ZpReg zp r s = .next t) :
    Lawful s t := by
  simp only [execMov16ZpReg] at h
  split at h
  · cases h
  · next e =>
    cases h
    exact lawful_advance (grows_storeWord e) (storeWord_pc e) _

theorem execBranchCall_lawful {imm : BitVec 8} {s t : State} (h : execBranchCall imm s = .next t) : Lawful s t := by
  simp only [execBranchCall] at h
  split at h
  · cases h
  · next e =>
    cases h
    exact ⟨(pushWord_grows e).trans (.of_eq rfl rfl), fun he => even_branchTarget he imm⟩

theorem execJumpZp_lawful {zp : BitVec 7} {s t : State} (h : execJumpZp zp s = .next t) : Lawful s t := by
  simp only [execJumpZp, readWord_zp] at h
  exact lawful_jumpTo (Quiet.refl s).grows h

/-- Whatever instruction answers a next state, it stores only where it notes so, and leaves an even `pc` even. -/
theorem exec_lawful {i : Instr} {s t : State} (h : exec i s = .next t) : Lawful s t := by
  cases i with
  | add8RegSrc | sub8RegSrc | adc8RegSrc | sbc8RegSrc | and8RegSrc | or8RegSrc | xor8RegSrc =>
    exact byteRegSrc_lawful h
  | cmp8RegSrc | test8RegSrc => exact byteCompareSrc_lawful h
  | add8RegImm | revsub8RegImm | adc8RegImm | revsbc8RegImm | and8RegImm | or8RegImm | xor8RegImm | add8RegZp
  | sub8RegZp | adc8RegZp | sbc8RegZp | and8RegZp | or8RegZp | xor8RegZp | neg8RegReg | revsub8RegReg | negc8RegReg
  | revsbc8RegReg | andNot8RegReg | orNot8RegReg | xorNot8RegReg => exact byteRegValue_lawful h
  | cmp8RegImm | cmp8RegZp | test8RegZp => exact byteCompareValue_lawful h
  | add8ZpReg | sub8ZpReg | adc8ZpReg | sbc8ZpReg | and8ZpReg | or8ZpReg | xor8ZpReg => exact byteZpReg_lawful h
  | add8DestReg | sub8DestReg | adc8DestReg | sbc8DestReg | and8DestReg | or8DestReg | xor8DestReg =>
    exact byteDestReg_lawful h
  | add16RegSrc | sub16RegSrc | adc16RegSrc | sbc16RegSrc | and16RegSrc | or16RegSrc | xor16RegSrc =>
    exact wordRegSrc_lawful h
  | cmp16RegSrc | test16RegSrc => exact wordCompareSrc_lawful h
  | add16RegImm | revsub16RegImm | adc16RegImm | revsbc16RegImm | and16RegImm | or16RegImm | xor16RegImm | neg16RegReg
  | revsub16RegReg | negc16RegReg | revsbc16RegReg | andNot16RegReg | orNot16RegReg | xorNot16RegReg =>
    exact wordRegValue_lawful h
  | add16RegZp | sub16RegZp | adc16RegZp | sbc16RegZp | and16RegZp | or16RegZp | xor16RegZp => exact wordRegZp_lawful h
  | cmp16RegImm => exact wordCompareValue_lawful h
  | cmp16RegZp | test16RegZp => exact wordCompareZp_lawful h
  | add16ZpReg | sub16ZpReg | adc16ZpReg | sbc16ZpReg | and16ZpReg | or16ZpReg | xor16ZpReg => exact wordZpReg_lawful h
  | add16DestReg | sub16DestReg | adc16DestReg | sbc16DestReg | and16DestReg | or16DestReg | xor16DestReg =>
    exact wordDestReg_lawful h
  | ror8RegSrc8 | sar8RegSrc8 | shr8RegSrc8 | shl8RegSrc8 | rol8RegSrc8 => exact byteShiftSrc8_lawful h
  | ror16RegSrc8 | sar16RegSrc8 | shr16RegSrc8 | shl16RegSrc8 | rol16RegSrc8 => exact wordShiftSrc8_lawful h
  | ror8RegImm | sar8RegImm | shr8RegImm | shl8RegImm => cases h; exact byteShift_lawful (Quiet.refl s) _ _ _ _
  | ror16RegImm | sar16RegImm | shr16RegImm | shl16RegImm => cases h; exact wordShift_lawful (Quiet.refl s) _ _ _ _
  | mul8RegSrc8 => exact byteMulSrc8_lawful h
  | mul16RegSrc8 => exact wordMulSrc8_lawful h
  | mul8RegImm => cases h; exact byteMul_lawful (Quiet.refl s) _ _ _
  | mul16RegImm => cases h; exact wordMul_lawful (Quiet.refl s) _ _ _
  | mov8RegSrc => exact byteMovRegSrc_lawful h
  | mov16RegSrc => exact wordMovRegSrc_lawful h
  | mov8DestReg => exact byteMovDestReg_lawful h
  | mov16DestReg => exact wordMovDestReg_lawful h
  | mov8RegImm | mov8RegZp => cases h; exact setReg8_advance_lawful (Quiet.refl s).grows rfl _ _ _
  | mov16RegImm => cases h; exact setReg16_advance_lawful (Quiet.refl s).grows rfl _ _ _
  | mov16RegZp => exact execMov16RegZp_lawful h
  | mov8ZpReg => cases h; exact storeByte_advance_lawful _ _ _ _
  | mov16ZpReg => exact execMov16ZpReg_lawful h
  | not8RegReg => exact execNot8RegReg_lawful h
  | not16RegReg => exact execNot16RegReg_lawful h
  | swap8DestReg => exact byteSwapDestReg_lawful h
  | swap16DestReg => exact wordSwapDestReg_lawful h
  | swap8ZpReg => exact execSwap8ZpReg_lawful h
  | swap16ZpReg => exact execSwap16ZpReg_lawful h
  | ret | jumpSrc => exact jumpWordSrc_lawful h
  | callSrc => exact callWordSrc_lawful h
  | jumpZp => exact execJumpZp_lawful h
  | branchAlways imm => cases h; exact ⟨.of_eq rfl rfl, fun he => even_branchTarget he imm⟩
  | branchCall => exact execBranchCall_lawful h
  | branchZ | branchNz | branchS | branchNs | branchC | branchNc | branchA | branchNa | branchV | branchNv | branchG
  | branchNg => exact branchIf_lawful h
  | unassignedShift8Op1 | unassignedShift8Op3 | unassignedShift8Op5 | unassignedShift16Op1 | unassignedShift16Op3
  | unassignedShift16Op5 | unassignedMul | unassignedBranch2 | unassignedBranch3 => cases h

/-- Everything a step that answers a next state can be: an instruction fetched and run. -/
theorem step_next {s t : State} (h : step s = .next t) : ∃ i, fetch s = .ok i ∧ exec i s = .next t := by
  unfold step at h
  split at h
  · cases h
  · next i hf => exact ⟨i, hf, h⟩

theorem step_lawful {s t : State} (h : step s = .next t) : Lawful s t :=
  have ⟨_, _, he⟩ := step_next h
  exec_lawful he

/-- Settles O11: each of the invariant's three parts is one that `Lawful` keeps. -/
theorem stepKeepsInvariant : Obligations.StepKeepsInvariant := by
  rintro s t ⟨hmem, hstored, hpc⟩ h
  obtain ⟨grows, even⟩ := step_lawful h
  exact ⟨grows.memWf hmem, grows.addrsWf hstored, even hpc⟩

/-- Settles O12. -/
theorem stepChangesOnlyStoredBytes : Obligations.StepChangesOnlyStoredBytes := by
  intro s t h
  obtain ⟨grows, -⟩ := step_lawful h
  exact ⟨grows.stored, grows.mem⟩

/-- A run of `n + 1` steps that answers a next state is a step and a run of `n`. -/
theorem run_succ {M : Host.Core} {n : Nat} {s t : M.State} (h : M.run (n + 1) s = .next t) :
    ∃ u, M.step s = .next u ∧ M.run n u = .next t := by
  unfold Host.Core.run at h
  split at h
  · next u hstep => exact ⟨u, hstep, h⟩
  · cases h
  · cases h

/-- A run of any length stores only where it notes so: the step law, by induction on the number of steps. -/
theorem run_grows {n : Nat} {s t : State} (h : Sys2Proof.core.run n s = .next t) : Grows s t := by
  induction n generalizing s with
  | zero => cases h; exact .of_eq rfl rfl
  | succ n ih =>
    obtain ⟨u, hstep, hrun⟩ := run_succ h
    exact (step_lawful hstep).1.trans (ih hrun)

/-- Settles O13: `t` fetches only bytes that are not noted as stored to, and these are as they were in `s`. -/
theorem programTextIsFixed : Obligations.ProgramTextIsFixed := by
  intro n s t i hrun hfetch
  exact fetch_congr (t := t) i rfl rfl (fun a ha => ((run_grows hrun).mem a ha).symm) hfetch

end Sys2Proof.Machine

/-! ### Every word has one of the encoder's shapes (R60, R61) -/

namespace Sys2Proof

theorem rr_reg8OfNum (rr : BitVec 2) (low : BitVec 1) : (reg8OfNum (rr ++ low)).rr = rr := by
  revert rr low; decide

theorem low_reg8OfNum (rr : BitVec 2) (low : BitVec 1) : (reg8OfNum (rr ++ low)).low = low := by
  revert rr low; decide

section
variable {w : Word}

theorem exists_wordA8 (h15 : w.getLsbD 15 = true) (h10 : w.getLsbD 10 = true) : ∃ aaa r dz op, w = wordA8 aaa r dz op := by
  refine ⟨fieldAaa w, reg8OfNum (fieldRr w ++ w.extractLsb' 14 1), w.extractLsb' 6 2, fieldOp w, ?_⟩
  rw [wordA8, rr_reg8OfNum, low_reg8OfNum]
  apply BitVec.eq_of_getLsbD_eq
  intro i hi
  simp only [BitVec.getLsbD_append, fieldAaa, fieldRr, fieldOp, BitVec.getLsbD_extractLsb']
  interval_cases i <;> simp_all

theorem exists_wordA8Zp (h15 : w.getLsbD 15 = true) (h10 : w.getLsbD 10 = false) : ∃ aaa r d zp, w = wordA8Zp aaa r d zp := by
  refine ⟨fieldAaa w, reg8OfNum (fieldRr w ++ w.extractLsb' 14 1), w.extractLsb' 7 1, fieldZp w, ?_⟩
  rw [wordA8Zp, rr_reg8OfNum, low_reg8OfNum]
  apply BitVec.eq_of_getLsbD_eq
  intro i hi
  simp only [BitVec.getLsbD_append, fieldAaa, fieldRr, fieldZp, BitVec.getLsbD_extractLsb']
  interval_cases i <;> simp_all

theorem exists_wordA16 (h15 : w.getLsbD 15 = false) (h14 : w.getLsbD 14 = true) (h10 : w.getLsbD 10 = true) :
    ∃ aaa k dz op, w = wordA16 aaa k dz op := by
  refine ⟨fieldAaa w, reg16OfNum (fieldRr w), w.extractLsb' 6 2, fieldOp w, ?_⟩
  rw [wordA16, num_reg16OfNum]
  apply BitVec.eq_of_getLsbD_eq
  intro i hi
  simp only [BitVec.getLsbD_append, fieldAaa, fieldRr, fieldOp, BitVec.getLsbD_extractLsb']
  interval_cases i <;> simp_all

theorem exists_wordA16Zp (h15 : w.getLsbD 15 = false) (h14 : w.getLsbD 14 = true) (h10 : w.getLsbD 10 = false) :
    ∃ aaa k d zp, w = wordA16Zp aaa k d zp := by
  refine ⟨fieldAaa w, reg16OfNum (fieldRr w), w.extractLsb' 7 1, fieldZp w, ?_⟩
  rw [wordA16Zp, num_reg16OfNum]
  apply BitVec.eq_of_getLsbD_eq
  intro i hi
  simp only [BitVec.getLsbD_append, fieldAaa, fieldRr, fieldZp, BitVec.getLsbD_extractLsb']
  interval_cases i <;> simp_all

theorem exists_wordM8 (h15 : w.getLsbD 15 = false) (h14 : w.getLsbD 14 = false) (h13 : w.getLsbD 13 = true) :
    ∃ o m r low, w = wordM8 o m r low := by
  refine ⟨w.extractLsb' 11 1, w.extractLsb' 10 1, reg8OfNum (fieldRr w ++ w.extractLsb' 12 1), fieldImm8 w, ?_⟩
  rw [wordM8, rr_reg8OfNum, low_reg8OfNum]
  apply BitVec.eq_of_getLsbD_eq
  intro i hi
  simp only [BitVec.getLsbD_append, fieldRr, fieldImm8, BitVec.getLsbD_extractLsb']
  interval_cases i <;> simp_all

theorem exists_wordM16 (h15 : w.getLsbD 15 = false) (h14 : w.getLsbD 14 = false) (h13 : w.getLsbD 13 = false)
    (h12 : w.getLsbD 12 = true) : ∃ o m k low, w = wordM16 o m k low := by
  refine ⟨w.extractLsb' 11 1, w.extractLsb' 10 1, reg16OfNum (fieldRr w), fieldImm8 w, ?_⟩
  rw [wordM16, num_reg16OfNum]
  apply BitVec.eq_of_getLsbD_eq
  intro i hi
  simp only [BitVec.getLsbD_append, fieldRr, fieldImm8, BitVec.getLsbD_extractLsb']
  interval_cases i <;> simp_all

theorem exists_branchWord (h15 : w.getLsbD 15 = false) (h14 : w.getLsbD 14 = false) (h13 : w.getLsbD 13 = false)
    (h12 : w.getLsbD 12 = false) : ∃ (c : BitVec 4) (low : BitVec 8), w = 0b0000#4 ++ c ++ low := by
  refine ⟨w.extractLsb' 8 4, fieldImm8 w, ?_⟩
  apply BitVec.eq_of_getLsbD_eq
  intro i hi
  simp only [BitVec.getLsbD_append, fieldImm8, BitVec.getLsbD_extractLsb']
  interval_cases i <;> simp_all

end
end Sys2Proof

/-! ### The operand codes that are not assigned (R79, R82) -/

namespace Sys2Proof

/-- A chain of tests answers nothing where every test fails and what is left answers nothing. -/
theorem ite_some_eq_none {α : Type} {c : Prop} [Decidable c] {a : α} {o : Option α} :
    (if c then some a else o) = none ↔ ¬c ∧ o = none := by
  split <;> simp [*]

theorem decodeMem_eq_none {op : BitVec 6} {imm : Word} :
    decodeMem op imm = none ↔ op.getLsbD 5 = false ∧ op.getLsbD 4 = false ∧ op ≠ 0b000011 := by
  refine ⟨decodeMem_none, fun ⟨h5, h4, h3⟩ => ?_⟩
  rw [decodeMem, h5, h4]
  exact if_neg h3

theorem decodeByteSrc_eq_none {op : BitVec 6} {imm : Word} :
    decodeByteSrc op imm = none ↔ op = 0b000000 ∨ op = 0b000100 ∨ op = 0b000110 := by
  simp only [decodeByteSrc, ite_some_eq_none, Option.map_eq_none_iff, decodeMem_eq_none]
  revert op; decide

theorem decodeByteDest_eq_none {op : BitVec 6} {imm : Word} :
    decodeByteDest op imm = none ↔ op = 0b000000 ∨ op = 0b000001 ∨ op = 0b000100 ∨ op = 0b000110 := by
  simp only [decodeByteDest, ite_some_eq_none, Option.map_eq_none_iff, decodeMem_eq_none]
  revert op; decide

theorem decodeWordDest_eq_none {op : BitVec 6} {imm : Word} :
    decodeWordDest op imm = none ↔ op = 0b000001 ∨ op.extractLsb' 3 3 = 0b001 := by
  simp only [decodeWordDest, ite_some_eq_none, Option.map_eq_none_iff, decodeMem_eq_none]
  revert op; decide

theorem decodeSrc8_eq_none {op : BitVec 6} {imm : Word} :
    decodeSrc8 op imm = none ↔ op = 0b000000 ∨ op = 0b000010 ∨ op = 0b000100 ∨ op = 0b000110 := by
  simp only [decodeSrc8, ite_some_eq_none, Option.map_eq_none_iff, decodeMem_eq_none]
  revert op; decide

theorem decodeWordSrc_ne_none (op : BitVec 6) (imm : Word) : decodeWordSrc op imm ≠ none :=
  Option.ne_none_iff_exists'.mpr (exists_decodeWordSrc op imm)

/-- Settles O5: what no other operand takes of a role's codes is a memory form, or nothing. -/
theorem unassignedOperandCodes : Obligations.UnassignedOperandCodes := fun op imm =>
  ⟨decodeByteSrc_eq_none, decodeByteDest_eq_none, decodeWordSrc_ne_none op imm, decodeWordDest_eq_none, decodeSrc8_eq_none⟩

/-! ### What a decoded word was -/

/-- `i` is well formed, `w` is its first word, and `imm` its second if it has one. -/
def WordOf (w imm : Word) (i : Instr) : Prop :=
  i.wf = true ∧ encodeWord i = w ∧ (i.words = 1 ∨ i.words = 2 ∧ encodeImm i = imm)

/-- `d`, as the decoder of the word `w` with any word after it, answers only instructions with these words, and whether
it answers does not depend on the second. -/
def Faithful (w : Word) (d : Word → Option Instr) : Prop :=
  (∀ imm, ∀ i ∈ d imm, WordOf w imm i) ∧ ∀ imm imm', d imm = none → d imm' = none

/-- What the encoder and the lengths say of an instruction. -/
def Carries (i : Instr) (w : Word) (wf : Bool) (words : Nat) (imm : Word) : Prop :=
  i.wf = wf ∧ encodeWord i = w ∧ i.words = words ∧ encodeImm i = imm

theorem Carries.wordOf {i : Instr} {w imm x : Word} {wf : Bool} {words : Nat} (h : Carries i w wf words x)
    (hwf : wf = true) (hw : words = 1 ∨ words = 2 ∧ x = imm) : WordOf w imm i := by
  obtain ⟨rfl, rfl, rfl, rfl⟩ := h
  exact ⟨hwf, rfl, hw⟩

theorem faithful_some {i : Instr} {w : Word} (h : Carries i w true 1 0) : Faithful w fun _ => some i :=
  ⟨fun _ _ hj => by cases hj; exact h.wordOf rfl (.inl rfl), fun _ _ h => h⟩

theorem faithful_option {o : Option Instr} {w : Word} (h : ∀ i ∈ o, Carries i w true 1 0) : Faithful w fun _ => o :=
  ⟨fun _ i hi => (h i hi).wordOf rfl (.inl rfl), fun _ _ h => h⟩

theorem faithful_map {α : Type} {dec : Word → Option α} {f : α → Instr} {w : Word}
    (hs : ∀ imm a, dec imm = some a → WordOf w imm (f a)) (hn : ∀ imm imm', dec imm = none → dec imm' = none) :
    Faithful w fun imm => (dec imm).map f := by
  refine ⟨fun imm i hi => ?_, fun imm imm' h => ?_⟩
  · obtain ⟨a, ha, rfl⟩ := Option.map_eq_some_iff.mp hi
    exact hs imm a ha
  · exact Option.map_eq_none_iff.mpr (hn imm imm' (Option.map_eq_none_iff.mp h))

section
variable {g : BitVec 6 → Word} (op : BitVec 6)

theorem faithful_byteSrc {f : ByteSrc → Instr} (h : ∀ src, Carries (f src) (g src.code) src.wf src.words src.immWord) :
    Faithful (g op) fun imm => (decodeByteSrc op imm).map f := by
  refine faithful_map (fun imm src hd => ?_) fun _ _ h => decodeByteSrc_eq_none.mpr (decodeByteSrc_eq_none.mp h)
  obtain ⟨hwf, rfl, hw⟩ := decodeByteSrc_some hd
  exact (h src).wordOf hwf hw

theorem faithful_wordSrc {f : WordSrc → Instr} {wf : WordSrc → Bool}
    (h : ∀ src, Carries (f src) (g src.code) (wf src) src.words src.immWord)
    (hwf : ∀ src : WordSrc, src.wf = true → src.code = op → wf src = true) :
    Faithful (g op) fun imm => (decodeWordSrc op imm).map f := by
  refine faithful_map (fun imm src hd => ?_) fun _ _ h => absurd h (decodeWordSrc_ne_none _ _)
  obtain ⟨hsrc, rfl, hw⟩ := decodeWordSrc_some hd
  exact (h src).wordOf (hwf src hsrc rfl) hw

theorem faithful_byteDest {f : ByteDest → Instr} {wf : ByteDest → Bool}
    (h : ∀ dst, Carries (f dst) (g dst.code) (wf dst) dst.words dst.immWord)
    (hwf : ∀ dst : ByteDest, dst.wf = true → (isByteReg op = false → dst.notGeneral = true) → wf dst = true) :
    Faithful (g op) fun imm => (decodeByteDest op imm).map f := by
  refine faithful_map (fun imm dst hd => ?_) fun _ _ h => decodeByteDest_eq_none.mpr (decodeByteDest_eq_none.mp h)
  obtain ⟨hdst, rfl, hw, hng⟩ := decodeByteDest_some hd
  exact (h dst).wordOf (hwf dst hdst hng) hw

theorem faithful_wordDest {f : WordDest → Instr} {wf : WordDest → Bool}
    (h : ∀ dst, Carries (f dst) (g dst.code) (wf dst) dst.words dst.immWord)
    (hwf : ∀ dst : WordDest, dst.wf = true → (isWordReg op = false → dst.notGeneral = true) → wf dst = true) :
    Faithful (g op) fun imm => (decodeWordDest op imm).map f := by
  refine faithful_map (fun imm dst hd => ?_) fun _ _ h => decodeWordDest_eq_none.mpr (decodeWordDest_eq_none.mp h)
  obtain ⟨hdst, rfl, hw, hng⟩ := decodeWordDest_some hd
  exact (h dst).wordOf (hwf dst hdst hng) hw

theorem faithful_src8 {f : Src8 → Instr} {wf : Src8 → Bool}
    (h : ∀ src, Carries (f src) (g src.code) (wf src) src.words src.immWord)
    (hwf : ∀ src : Src8, src.wf = true → wf src = true) : Faithful (g op) fun imm => (decodeSrc8 op imm).map f := by
  refine faithful_map (fun imm src hd => ?_) fun _ _ h => decodeSrc8_eq_none.mpr (decodeSrc8_eq_none.mp h)
  obtain ⟨hsrc, rfl, hw⟩ := decodeSrc8_some hd
  exact (h src).wordOf (hwf src hsrc) hw

end

/-! ### The rows of each `aaa` column, of `shift reg, imm4` and of form B -/

theorem aaa_cases (aaa : BitVec 3) :
    aaa = 0 ∨ aaa = 1 ∨ aaa = 2 ∨ aaa = 3 ∨ aaa = 4 ∨ aaa = 5 ∨ aaa = 6 ∨ aaa = 7 := by
  revert aaa; decide

theorem dz_cases (dz : BitVec 2) : dz = 0b00#2 ∨ dz = 0b01#2 ∨ dz = 0b10#2 ∨ dz = 0b11#2 := by
  revert dz; decide

theorem bit_cases (d : BitVec 1) : d = 0#1 ∨ d = 1#1 := by
  revert d; decide

theorem cccc_cases (c : BitVec 4) : c = 0 ∨ c = 1 ∨ c = 2 ∨ c = 3 ∨ c = 4 ∨ c = 5 ∨ c = 6 ∨ c = 7 ∨ c = 8 ∨ c = 9 ∨
    c = 10 ∨ c = 11 ∨ c = 12 ∨ c = 13 ∨ c = 14 ∨ c = 15 := by
  revert c; decide

theorem shiftCode_split (op : BitVec 6) : ∃ (x : BitVec 2) (n : BitVec 4), op = x ++ n :=
  ⟨_, _, (BitVec.extractLsb'_append_extractLsb' (w := 2) (len := 4)).symm⟩

section
variable (aaa : BitVec 3) (op : BitVec 6) (zp : BitVec 7) (r r' : Reg8) (k k' : Reg16)

theorem binop8RegSrc_carries (src : ByteSrc) :
    Carries (binop8RegSrc aaa r src) (wordA8 aaa r 0b00#2 src.code) src.wf src.words src.immWord := by
  rcases aaa_cases aaa with rfl | rfl | rfl | rfl | rfl | rfl | rfl | rfl <;> exact ⟨rfl, rfl, rfl, rfl⟩

theorem binop8RegImm_carries : Carries (binop8RegImm aaa r op) (wordA8 aaa r 0b01#2 op) true 1 0 := by
  rcases aaa_cases aaa with rfl | rfl | rfl | rfl | rfl | rfl | rfl | rfl <;> exact ⟨rfl, rfl, rfl, rfl⟩

theorem binop8RegZp_carries : Carries (binop8RegZp aaa r zp) (wordA8Zp aaa r 0#1 zp) true 1 0 := by
  rcases aaa_cases aaa with rfl | rfl | rfl | rfl | rfl | rfl | rfl | rfl <;> exact ⟨rfl, rfl, rfl, rfl⟩

theorem binop8ZpReg_carries : Carries (binop8ZpReg aaa zp r) (wordA8Zp aaa r 1#1 zp) true 1 0 := by
  rcases aaa_cases aaa with rfl | rfl | rfl | rfl | rfl | rfl | rfl | rfl <;> exact ⟨rfl, rfl, rfl, rfl⟩

theorem alternate8_carries :
    ∀ i ∈ alternate8 aaa r r', Carries i (wordA8 aaa r' 0b10#2 (0b001#3 ++ r.num)) true 1 0 := by
  intro i hi
  rcases aaa_cases aaa with rfl | rfl | rfl | rfl | rfl | rfl | rfl | rfl <;> cases hi <;> exact ⟨rfl, rfl, rfl, rfl⟩

theorem binop8DestReg_carries (h : aaa ≠ 7) : ∃ f : ByteDest → Instr, (fun dst => binop8DestReg aaa dst r) = some ∘ f ∧
    ∀ dst, Carries (f dst) (wordA8 aaa r 0b10#2 dst.code) (dst.wf && dst.notGeneral) dst.words dst.immWord := by
  rcases aaa_cases aaa with rfl | rfl | rfl | rfl | rfl | rfl | rfl | rfl
  case inr.inr.inr.inr.inr.inr.inr => exact absurd rfl h
  all_goals exact ⟨_, rfl, fun _ => ⟨rfl, rfl, rfl, rfl⟩⟩

theorem shift8RegSrc8_faithful : Faithful (wordA8 aaa r 0b11#2 op) (shift8RegSrc8 aaa r op) := by
  rcases aaa_cases aaa with rfl | rfl | rfl | rfl | rfl | rfl | rfl | rfl
  case inr.inl | inr.inr.inr.inl | inr.inr.inr.inr.inr.inl => exact faithful_some ⟨rfl, rfl, rfl, rfl⟩
  all_goals exact faithful_src8 op (fun _ => ⟨rfl, rfl, rfl, rfl⟩) fun _ h => h

theorem shift8RegImm_carries : Carries (shift8RegImm op r) (wordM8 1#1 1#1 r (0b01#2 ++ op)) true 1 0 := by
  obtain ⟨x, n, rfl⟩ := shiftCode_split op
  rw [shift8RegImm_append]
  rcases dz_cases x with rfl | rfl | rfl | rfl
  · exact ⟨rfl, congrArg (wordM8 1#1 1#1 r) (append_split 0b0100#4 0b01#2 0b00#2 rfl n), rfl, rfl⟩
  · exact ⟨rfl, congrArg (wordM8 1#1 1#1 r) (append_split 0b0101#4 0b01#2 0b01#2 rfl n), rfl, rfl⟩
  · exact ⟨rfl, congrArg (wordM8 1#1 1#1 r) (append_split 0b0110#4 0b01#2 0b10#2 rfl n), rfl, rfl⟩
  · exact ⟨rfl, congrArg (wordM8 1#1 1#1 r) (append_split 0b0111#4 0b01#2 0b11#2 rfl n), rfl, rfl⟩

theorem binop16RegSrc_carries (src : WordSrc) :
    Carries (binop16RegSrc aaa k src) (wordA16 aaa k 0b00#2 src.code) src.wf src.words src.immWord := by
  rcases aaa_cases aaa with rfl | rfl | rfl | rfl | rfl | rfl | rfl | rfl <;> exact ⟨rfl, rfl, rfl, rfl⟩

theorem binop16RegImm_carries : Carries (binop16RegImm aaa k op) (wordA16 aaa k 0b01#2 op) true 1 0 := by
  rcases aaa_cases aaa with rfl | rfl | rfl | rfl | rfl | rfl | rfl | rfl <;> exact ⟨rfl, rfl, rfl, rfl⟩

theorem binop16RegZp_carries : Carries (binop16RegZp aaa k zp) (wordA16Zp aaa k 0#1 zp) true 1 0 := by
  rcases aaa_cases aaa with rfl | rfl | rfl | rfl | rfl | rfl | rfl | rfl <;> exact ⟨rfl, rfl, rfl, rfl⟩

theorem binop16ZpReg_carries : Carries (binop16ZpReg aaa zp k) (wordA16Zp aaa k 1#1 zp) true 1 0 := by
  rcases aaa_cases aaa with rfl | rfl | rfl | rfl | rfl | rfl | rfl | rfl <;> exact ⟨rfl, rfl, rfl, rfl⟩

theorem alternate16_carries :
    ∀ i ∈ alternate16 aaa k k', Carries i (wordA16 aaa k' 0b10#2 (0b000#3 ++ k.num ++ 0#1)) true 1 0 := by
  intro i hi
  rcases aaa_cases aaa with rfl | rfl | rfl | rfl | rfl | rfl | rfl | rfl <;> cases hi <;> exact ⟨rfl, rfl, rfl, rfl⟩

theorem binop16DestReg_carries (h : aaa ≠ 7) : ∃ f : WordDest → Instr, (fun dst => binop16DestReg aaa dst k) = some ∘ f ∧
    ∀ dst, Carries (f dst) (wordA16 aaa k 0b10#2 dst.code) (dst.wf && dst.notGeneral) dst.words dst.immWord := by
  rcases aaa_cases aaa with rfl | rfl | rfl | rfl | rfl | rfl | rfl | rfl
  case inr.inr.inr.inr.inr.inr.inr => exact absurd rfl h
  all_goals exact ⟨_, rfl, fun _ => ⟨rfl, rfl, rfl, rfl⟩⟩

theorem shift16RegSrc8_faithful : Faithful (wordA16 aaa k 0b11#2 op) (shift16RegSrc8 aaa k op) := by
  rcases aaa_cases aaa with rfl | rfl | rfl | rfl | rfl | rfl | rfl | rfl
  case inr.inl | inr.inr.inr.inl | inr.inr.inr.inr.inr.inl => exact faithful_some ⟨rfl, rfl, rfl, rfl⟩
  all_goals exact faithful_src8 op (fun _ => ⟨rfl, rfl, rfl, rfl⟩) fun _ h => h

theorem shift16RegImm_carries : Carries (shift16RegImm op k) (wordM16 1#1 1#1 k (0b01#2 ++ op)) true 1 0 := by
  obtain ⟨x, n, rfl⟩ := shiftCode_split op
  rw [shift16RegImm_append]
  rcases dz_cases x with rfl | rfl | rfl | rfl
  · exact ⟨rfl, congrArg (wordM16 1#1 1#1 k) (append_split 0b0100#4 0b01#2 0b00#2 rfl n), rfl, rfl⟩
  · exact ⟨rfl, congrArg (wordM16 1#1 1#1 k) (append_split 0b0101#4 0b01#2 0b01#2 rfl n), rfl, rfl⟩
  · exact ⟨rfl, congrArg (wordM16 1#1 1#1 k) (append_split 0b0110#4 0b01#2 0b10#2 rfl n), rfl, rfl⟩
  · exact ⟨rfl, congrArg (wordM16 1#1 1#1 k) (append_split 0b0111#4 0b01#2 0b11#2 rfl n), rfl, rfl⟩

theorem branchOf_carries (c : BitVec 4) (low : BitVec 8) : Carries (branchOf c low) (0b0000#4 ++ c ++ low) true 1 0 := by
  rcases cccc_cases c with rfl | rfl | rfl | rfl | rfl | rfl | rfl | rfl | rfl | rfl | rfl | rfl | rfl | rfl | rfl | rfl <;>
    exact ⟨rfl, rfl, rfl, rfl⟩

end

end Sys2Proof

/-! ### The decoder is faithful on every shape -/

namespace Sys2Proof

theorem Faithful.congr {w : Word} {d d' : Word → Option Instr} (h : ∀ imm, d imm = d' imm) (hd : Faithful w d') :
    Faithful w d := funext h ▸ hd

/-- A decoder that a test of the first word chooses. -/
theorem Faithful.ite {w : Word} {c : Prop} [Decidable c] {d d' : Word → Option Instr} (h : c → Faithful w d)
    (h' : ¬c → Faithful w d') : Faithful w fun imm => if c then d imm else d' imm := by
  by_cases hc : c
  · exact .congr (fun _ => if_pos hc) (h hc)
  · exact .congr (fun _ => if_neg hc) (h' hc)

theorem mulZ_cases (z : BitVec 1) : z = ~~~mulImmZ ∨ z = mulImmZ := by
  revert z; decide

theorem low_eq_dz_op (low : BitVec 8) : ∃ (dz : BitVec 2) (op : BitVec 6), low = dz ++ op :=
  ⟨_, _, (BitVec.extractLsb'_append_extractLsb' (w := 2) (len := 6)).symm⟩

theorem low_eq_d_zp (low : BitVec 8) : ∃ (d : BitVec 1) (zp : BitVec 7), low = d ++ zp :=
  ⟨_, _, (BitVec.extractLsb'_append_extractLsb' (w := 1) (len := 7)).symm⟩

theorem low_eq_z_op (zp : BitVec 7) : ∃ (z : BitVec 1) (op : BitVec 6), (0#1 ++ zp : BitVec 8) = 0#1 ++ z ++ op := by
  obtain ⟨op, rfl | rfl⟩ := zp_cases zp
  · exact ⟨0, op, (BitVec.append_assoc (x₁ := 0#1) (x₂ := 0#1) (x₃ := op)).symm⟩
  · exact ⟨1, op, (BitVec.append_assoc (x₁ := 0#1) (x₂ := 1#1) (x₃ := op)).symm⟩

section
variable (aaa : BitVec 3) (r : Reg8) (k : Reg16) (dz : BitVec 2) (op : BitVec 6) (d : BitVec 1) (zp : BitVec 7)
  (o m : BitVec 1) (low : BitVec 8)

theorem faithful_destReg8 : Faithful (wordA8 aaa r 0b10#2 op) (decodeWords (wordA8 aaa r 0b10#2 op)) := by
  refine .congr (decodeWords_destReg8 aaa r op) (.ite (fun h7 => ?_) fun h7 => .ite (fun hr => ?_) fun hr => ?_)
  · subst h7
    exact faithful_byteSrc op fun _ => ⟨rfl, rfl, rfl, rfl⟩
  · have h := alternate8_carries aaa (reg8OfNum (op.extractLsb' 0 3)) r
    rw [byteReg_code hr] at h
    exact faithful_option h
  · obtain ⟨f, hf, h⟩ := binop8DestReg_carries aaa r h7
    refine .congr (fun imm => (congrArg _ hf).trans (Option.map_eq_bind).symm) (faithful_byteDest op h fun dst hwf hng => ?_)
    exact Bool.and_eq_true_iff.mpr ⟨hwf, hng (Bool.eq_false_of_not_eq_true hr)⟩

theorem faithful_wordA8 : Faithful (wordA8 aaa r dz op) (decodeWords (wordA8 aaa r dz op)) := by
  rcases dz_cases dz with rfl | rfl | rfl | rfl
  · exact .congr (decodeWords_regSrc8 aaa r op) (faithful_byteSrc op (binop8RegSrc_carries aaa r))
  · exact .congr (decodeWords_regImm8 aaa r op) (faithful_some (binop8RegImm_carries aaa op r))
  · exact faithful_destReg8 aaa r op
  · exact .congr (decodeWords_shift8 aaa r op) (shift8RegSrc8_faithful aaa op r)

theorem faithful_wordA8Zp : Faithful (wordA8Zp aaa r d zp) (decodeWords (wordA8Zp aaa r d zp)) := by
  rcases bit_cases d with rfl | rfl
  · exact .congr (decodeWords_regZp8 aaa r zp) (faithful_some (binop8RegZp_carries aaa zp r))
  · exact .congr (decodeWords_zpReg8 aaa r zp) (faithful_some (binop8ZpReg_carries aaa zp r))

theorem faithful_destReg16 : Faithful (wordA16 aaa k 0b10#2 op) (decodeWords (wordA16 aaa k 0b10#2 op)) := by
  refine .congr (decodeWords_destReg16 aaa k op) (.ite (fun h7 => ?_) fun h7 => .ite (fun hr => ?_) fun hr => ?_)
  · subst h7
    exact faithful_wordSrc op (fun _ => ⟨rfl, rfl, rfl, rfl⟩) fun _ h _ => h
  · have h := alternate16_carries aaa (reg16OfNum (op.extractLsb' 1 2)) k
    rw [wordReg_code hr] at h
    exact faithful_option h
  · obtain ⟨f, hf, h⟩ := binop16DestReg_carries aaa k h7
    refine .congr (fun imm => (congrArg _ hf).trans (Option.map_eq_bind).symm) (faithful_wordDest op h fun dst hwf hng => ?_)
    exact Bool.and_eq_true_iff.mpr ⟨hwf, hng (Bool.eq_false_of_not_eq_true hr)⟩

theorem faithful_wordA16 : Faithful (wordA16 aaa k dz op) (decodeWords (wordA16 aaa k dz op)) := by
  rcases dz_cases dz with rfl | rfl | rfl | rfl
  · exact .congr (decodeWords_regSrc16 aaa k op) (faithful_wordSrc op (binop16RegSrc_carries aaa k) fun _ h _ => h)
  · exact .congr (decodeWords_regImm16 aaa k op) (faithful_some (binop16RegImm_carries aaa op k))
  · exact faithful_destReg16 aaa k op
  · exact .congr (decodeWords_shift16 aaa k op) (shift16RegSrc8_faithful aaa op k)

theorem faithful_wordA16Zp : Faithful (wordA16Zp aaa k d zp) (decodeWords (wordA16Zp aaa k d zp)) := by
  rcases bit_cases d with rfl | rfl
  · exact .congr (decodeWords_regZp16 aaa k zp) (faithful_some (binop16RegZp_carries aaa zp k))
  · exact .congr (decodeWords_zpReg16 aaa k zp) (faithful_some (binop16ZpReg_carries aaa zp k))

/-- The words of the absolute jumps and of the unassigned row beside them (R74, R82). -/
theorem jump_word : wordM8 0#1 0#1 .a (0#1 ++ 0#1 ++ op) = 0b0010000000#10 ++ op := by revert op; decide

theorem call_word : wordM8 0#1 0#1 .a (0#1 ++ 1#1 ++ op) = 0b0010000001#10 ++ op := by revert op; decide

theorem unassignedMul_word : wordM8 0#1 0#1 .b (0#1 ++ zp) = 0b001100000#9 ++ zp := by revert zp; decide

theorem jumpZp_word : wordM16 0#1 0#1 .ba (0#1 ++ zp) = 0b000100000#9 ++ zp := by revert zp; decide

theorem faithful_jump : Faithful (0b0010000000#10 ++ op) (decodeWords (0b0010000000#10 ++ op)) := by
  by_cases hret : op = 0b000101
  · subst hret
    exact .congr decodeWords_ret (faithful_some ⟨rfl, rfl, rfl, rfl⟩)
  · refine .congr (decodeWords_jump op · hret) (faithful_wordSrc op (fun _ => ⟨rfl, rfl, rfl, rfl⟩) fun src hwf hop => ?_)
    have hpop : src.notPop = true := by
      cases src with
      | pop => exact absurd hop.symm hret
      | _ => rfl
    exact Bool.and_eq_true_iff.mpr ⟨hwf, hpop⟩

theorem faithful_call : Faithful (0b0010000001#10 ++ op) (decodeWords (0b0010000001#10 ++ op)) :=
  .congr (decodeWords_call op) (faithful_wordSrc op (fun _ => ⟨rfl, rfl, rfl, rfl⟩) fun _ h _ => h)

/-- The `mul` words of form m (R73). -/
theorem faithful_mul8 (z : BitVec 1) (h : r.pair.mulOk = true) :
    Faithful (wordM8 0#1 0#1 r (0#1 ++ z ++ op)) (decodeWords (wordM8 0#1 0#1 r (0#1 ++ z ++ op))) := by
  rcases mulZ_cases z with rfl | rfl
  · refine .congr (decodeWords_mulSrc8 r op · h) (faithful_src8 (g := fun op => wordM8 0#1 0#1 r (0#1 ++ ~~~mulImmZ ++ op)) op (fun _ => ⟨rfl, rfl, rfl, rfl⟩) fun src hwf => ?_)
    exact Bool.and_eq_true_iff.mpr ⟨h, hwf⟩
  · exact .congr (decodeWords_mulImm8 r op · h) (faithful_some ⟨h, rfl, rfl, rfl⟩)

/-- The slot of form m that `mul` and the absolute jumps share (R73, R74). -/
theorem faithful_mulJump8 : Faithful (wordM8 0#1 0#1 r (0#1 ++ zp)) (decodeWords (wordM8 0#1 0#1 r (0#1 ++ zp))) := by
  by_cases hr : r.pair.mulOk = true
  · obtain ⟨z, op, hz⟩ := low_eq_z_op zp
    rw [hz]; exact faithful_mul8 r op z hr
  · cases r with
    | a =>
      obtain ⟨z, op, hz⟩ := low_eq_z_op zp
      rcases bit_cases z with rfl | rfl
      · rw [hz, jump_word]; exact faithful_jump op
      · rw [hz, call_word]; exact faithful_call op
    | b =>
      rw [unassignedMul_word]
      exact .congr (decodeWords_unassignedMul zp) (faithful_some ⟨rfl, rfl, rfl, rfl⟩)
    | c | d | e | f | g | h => exact absurd rfl hr

theorem faithful_movDest8 : Faithful (wordM8 1#1 1#1 r (0b10#2 ++ op)) (decodeWords (wordM8 1#1 1#1 r (0b10#2 ++ op))) := by
  refine .congr (decodeWords_movDest8 r op) (.ite (fun hr => ?_) fun hr => ?_)
  · refine faithful_some ⟨rfl, ?_, rfl, rfl⟩
    rw [encodeWord, notCode8_split, byteReg_code hr]
  · refine faithful_byteDest (g := fun op => wordM8 1#1 1#1 r (0b10#2 ++ op)) op (fun _ => ⟨rfl, rfl, rfl, rfl⟩) fun dst hwf hng => ?_
    exact Bool.and_eq_true_iff.mpr ⟨hwf, hng (Bool.eq_false_of_not_eq_true hr)⟩

theorem faithful_wordM8 : Faithful (wordM8 o m r low) (decodeWords (wordM8 o m r low)) := by
  obtain ⟨dz, op, hdz⟩ := low_eq_dz_op low
  obtain ⟨d, zp, hzp⟩ := low_eq_d_zp low
  rcases bit_cases o with rfl | rfl <;> rcases bit_cases m with rfl | rfl
  · rw [hzp]
    rcases bit_cases d with rfl | rfl
    · exact faithful_mulJump8 r zp
    · exact .congr (decodeWords_swapZp8 r zp) (faithful_some ⟨rfl, rfl, rfl, rfl⟩)
  · exact .congr (decodeWords_movImm8 r low) (faithful_some ⟨rfl, rfl, rfl, rfl⟩)
  · rw [hzp]
    rcases bit_cases d with rfl | rfl
    · exact .congr (decodeWords_movRegZp8 r zp) (faithful_some ⟨rfl, rfl, rfl, rfl⟩)
    · exact .congr (decodeWords_movZpReg8 r zp) (faithful_some ⟨rfl, rfl, rfl, rfl⟩)
  · rw [hdz]
    rcases dz_cases dz with rfl | rfl | rfl | rfl
    · exact .congr (decodeWords_movSrc8 r op) (faithful_byteSrc (g := fun op => wordM8 1#1 1#1 r (0b00#2 ++ op)) op fun _ => ⟨rfl, rfl, rfl, rfl⟩)
    · exact .congr (decodeWords_shiftImm8 r op) (faithful_some (shift8RegImm_carries op r))
    · exact faithful_movDest8 r op
    · exact .congr (decodeWords_swapDest8 r op) (faithful_byteDest (g := fun op => wordM8 1#1 1#1 r (0b11#2 ++ op)) op (fun _ => ⟨rfl, rfl, rfl, rfl⟩) fun _ h _ => h)

/-- The `mul` words of form M (R73). -/
theorem faithful_mul16 (z : BitVec 1) (h : k.mulOk = true) :
    Faithful (wordM16 0#1 0#1 k (0#1 ++ z ++ op)) (decodeWords (wordM16 0#1 0#1 k (0#1 ++ z ++ op))) := by
  rcases mulZ_cases z with rfl | rfl
  · refine .congr (decodeWords_mulSrc16 k op · h) (faithful_src8 (g := fun op => wordM16 0#1 0#1 k (0#1 ++ ~~~mulImmZ ++ op)) op (fun _ => ⟨rfl, rfl, rfl, rfl⟩) fun src hwf => ?_)
    exact Bool.and_eq_true_iff.mpr ⟨h, hwf⟩
  · exact .congr (decodeWords_mulImm16 k op · h) (faithful_some ⟨h, rfl, rfl, rfl⟩)

/-- The slot of form M that `mul` and `jump [zp]` share (R73, R74). -/
theorem faithful_mulJump16 : Faithful (wordM16 0#1 0#1 k (0#1 ++ zp)) (decodeWords (wordM16 0#1 0#1 k (0#1 ++ zp))) := by
  by_cases hk : k.mulOk = true
  · obtain ⟨z, op, hz⟩ := low_eq_z_op zp
    rw [hz]; exact faithful_mul16 k op z hk
  · cases k with
    | ba =>
      rw [jumpZp_word]
      exact .congr (decodeWords_jumpZp zp) (faithful_some ⟨rfl, rfl, rfl, rfl⟩)
    | dc | fe | hg => exact absurd rfl hk

theorem faithful_movDest16 :
    Faithful (wordM16 1#1 1#1 k (0b10#2 ++ op)) (decodeWords (wordM16 1#1 1#1 k (0b10#2 ++ op))) := by
  refine .congr (decodeWords_movDest16 k op) (.ite (fun hr => ?_) fun hr => ?_)
  · refine faithful_some ⟨rfl, ?_, rfl, rfl⟩
    rw [encodeWord, notCode16_split, wordReg_code hr]
  · refine faithful_wordDest (g := fun op => wordM16 1#1 1#1 k (0b10#2 ++ op)) op (fun _ => ⟨rfl, rfl, rfl, rfl⟩) fun dst hwf hng => ?_
    exact Bool.and_eq_true_iff.mpr ⟨hwf, hng (Bool.eq_false_of_not_eq_true hr)⟩

theorem faithful_wordM16 : Faithful (wordM16 o m k low) (decodeWords (wordM16 o m k low)) := by
  obtain ⟨dz, op, hdz⟩ := low_eq_dz_op low
  obtain ⟨d, zp, hzp⟩ := low_eq_d_zp low
  rcases bit_cases o with rfl | rfl <;> rcases bit_cases m with rfl | rfl
  · rw [hzp]
    rcases bit_cases d with rfl | rfl
    · exact faithful_mulJump16 k zp
    · exact .congr (decodeWords_swapZp16 k zp) (faithful_some ⟨rfl, rfl, rfl, rfl⟩)
  · exact .congr (decodeWords_movImm16 k low) (faithful_some ⟨rfl, rfl, rfl, rfl⟩)
  · rw [hzp]
    rcases bit_cases d with rfl | rfl
    · exact .congr (decodeWords_movRegZp16 k zp) (faithful_some ⟨rfl, rfl, rfl, rfl⟩)
    · exact .congr (decodeWords_movZpReg16 k zp) (faithful_some ⟨rfl, rfl, rfl, rfl⟩)
  · rw [hdz]
    rcases dz_cases dz with rfl | rfl | rfl | rfl
    · exact .congr (decodeWords_movSrc16 k op) (faithful_wordSrc (g := fun op => wordM16 1#1 1#1 k (0b00#2 ++ op)) op (fun _ => ⟨rfl, rfl, rfl, rfl⟩) fun _ h _ => h)
    · exact .congr (decodeWords_shiftImm16 k op) (faithful_some (shift16RegImm_carries op k))
    · exact faithful_movDest16 k op
    · exact .congr (decodeWords_swapDest16 k op) (faithful_wordDest (g := fun op => wordM16 1#1 1#1 k (0b11#2 ++ op)) op (fun _ => ⟨rfl, rfl, rfl, rfl⟩) fun _ h _ => h)

end

/-- The decoder answers for a word only instructions with that word, and by the word alone whether it answers. -/
theorem decodeWords_faithful (w : Word) : Faithful w (decodeWords w) := by
  cases h15 : w.getLsbD 15 with
  | true =>
    cases h10 : w.getLsbD 10 with
    | true => obtain ⟨aaa, r, dz, op, rfl⟩ := exists_wordA8 h15 h10; exact faithful_wordA8 aaa r dz op
    | false => obtain ⟨aaa, r, d, zp, rfl⟩ := exists_wordA8Zp h15 h10; exact faithful_wordA8Zp aaa r d zp
  | false =>
    cases h14 : w.getLsbD 14 with
    | true =>
      cases h10 : w.getLsbD 10 with
      | true => obtain ⟨aaa, k, dz, op, rfl⟩ := exists_wordA16 h15 h14 h10; exact faithful_wordA16 aaa k dz op
      | false => obtain ⟨aaa, k, d, zp, rfl⟩ := exists_wordA16Zp h15 h14 h10; exact faithful_wordA16Zp aaa k d zp
    | false =>
      cases h13 : w.getLsbD 13 with
      | true => obtain ⟨o, m, r, low, rfl⟩ := exists_wordM8 h15 h14 h13; exact faithful_wordM8 r o m low
      | false =>
        cases h12 : w.getLsbD 12 with
        | true => obtain ⟨o, m, k, low, rfl⟩ := exists_wordM16 h15 h14 h13 h12; exact faithful_wordM16 k o m low
        | false =>
          obtain ⟨c, low, rfl⟩ := exists_branchWord h15 h14 h13 h12
          exact .congr (decodeWords_branch low · c) (faithful_some (branchOf_carries c low))

end Sys2Proof

/-! ### Encoding and decoding (R62, R86) -/

namespace Sys2Proof

open Laws.RoundTrip in
/-- The round trip of words holds of every instruction: one lemma per constructor, in the order of `Instr`. -/
theorem roundTrip (i : Instr) : Statement i :=
  Instr.rec (motive := Statement)
    add8RegSrc sub8RegSrc adc8RegSrc sbc8RegSrc and8RegSrc or8RegSrc xor8RegSrc cmp8RegSrc add8RegImm revsub8RegImm
    adc8RegImm revsbc8RegImm and8RegImm or8RegImm xor8RegImm cmp8RegImm test8RegSrc neg8RegReg revsub8RegReg
    negc8RegReg revsbc8RegReg andNot8RegReg orNot8RegReg xorNot8RegReg ror8RegSrc8 sar8RegSrc8 shr8RegSrc8
    shl8RegSrc8 rol8RegSrc8 unassignedShift8Op1 unassignedShift8Op3 unassignedShift8Op5 add8RegZp sub8RegZp adc8RegZp
    sbc8RegZp and8RegZp or8RegZp xor8RegZp cmp8RegZp add8ZpReg sub8ZpReg adc8ZpReg sbc8ZpReg and8ZpReg or8ZpReg
    xor8ZpReg test8RegZp add8DestReg sub8DestReg adc8DestReg sbc8DestReg and8DestReg or8DestReg xor8DestReg
    add16RegSrc sub16RegSrc adc16RegSrc sbc16RegSrc and16RegSrc or16RegSrc xor16RegSrc cmp16RegSrc add16RegImm
    revsub16RegImm adc16RegImm revsbc16RegImm and16RegImm or16RegImm xor16RegImm cmp16RegImm test16RegSrc neg16RegReg
    revsub16RegReg negc16RegReg revsbc16RegReg andNot16RegReg orNot16RegReg xorNot16RegReg ror16RegSrc8 sar16RegSrc8
    shr16RegSrc8 shl16RegSrc8 rol16RegSrc8 unassignedShift16Op1 unassignedShift16Op3 unassignedShift16Op5 add16RegZp
    sub16RegZp adc16RegZp sbc16RegZp and16RegZp or16RegZp xor16RegZp cmp16RegZp add16ZpReg sub16ZpReg adc16ZpReg
    sbc16ZpReg and16ZpReg or16ZpReg xor16ZpReg test16RegZp add16DestReg sub16DestReg adc16DestReg sbc16DestReg
    and16DestReg or16DestReg xor16DestReg ret jumpSrc callSrc unassignedMul mov8RegImm swap8ZpReg mov8RegSrc
    ror8RegImm sar8RegImm shr8RegImm shl8RegImm not8RegReg swap8DestReg mov8RegZp mov8ZpReg mul8RegSrc8 mul8RegImm
    mov8DestReg jumpZp mov16RegImm swap16ZpReg mov16RegSrc ror16RegImm sar16RegImm shr16RegImm shl16RegImm
    not16RegReg swap16DestReg mov16RegZp mov16ZpReg mul16RegSrc8 mul16RegImm mov16DestReg branchAlways branchCall
    unassignedBranch2 unassignedBranch3 branchZ branchNz branchS branchNs branchC branchNc branchA branchNa branchV
    branchNv branchG branchNg i

theorem decodeWords_encodeWord {i : Instr} {imm : Word} (h : i.wf = true) (hi : i.words = 2 → imm = encodeImm i) :
    decodeWords (encodeWord i) imm = some i :=
  (roundTrip i).2 imm h hi

/-- The words of a decoded instruction are the ones it was decoded from. -/
theorem wordOf_of_decodeWords {w imm : Word} {i : Instr} (h : decodeWords w imm = some i) : WordOf w imm i :=
  (decodeWords_faithful w).1 imm i h

/-- A one-word instruction takes nothing from the word after it. -/
theorem decodeWords_of_words_one {w imm : Word} {i : Instr} (h : decodeWords w imm = some i) (h1 : i.words = 1)
    (imm' : Word) : decodeWords w imm' = some i := by
  obtain ⟨hwf, rfl, -⟩ := wordOf_of_decodeWords h
  exact decodeWords_encodeWord hwf fun h2 => by omega

/-- With another second word the first decodes to an instruction of the same length. -/
theorem exists_decodeWords_words_eq {w imm : Word} {i : Instr} (h : decodeWords w imm = some i) (imm' : Word) :
    ∃ j, decodeWords w imm' = some j ∧ j.words = i.words := by
  have hne : decodeWords w imm' ≠ none := fun hn => by
    cases ((decodeWords_faithful w).2 imm' imm hn).symm.trans h
  obtain ⟨j, hj⟩ := Option.ne_none_iff_exists'.mp hne
  refine ⟨j, hj, ?_⟩
  have same {a b : Instr} {x y : Word} (ha : decodeWords w x = some a) (h1 : a.words = 1)
      (hb : decodeWords w y = some b) : b = a :=
    Option.some.inj (hb.symm.trans (decodeWords_of_words_one ha h1 y))
  rcases words_cases i with hi | hi
  · rw [same h hi hj]
  · rcases words_cases j with h1 | h2
    · rw [same hj h1 h]
    · rw [h2, hi]

/-- Settles O6. -/
theorem firstWordTellsLength : Obligations.FirstWordTellsLength := by
  intro w imm imm' i h
  obtain ⟨j, hj, hwords⟩ := exists_decodeWords_words_eq h imm'
  obtain ⟨-, hwi, -⟩ := wordOf_of_decodeWords h
  obtain ⟨-, hwj, -⟩ := wordOf_of_decodeWords hj
  refine ⟨words_cases i, j, hj, hwords, hwj.trans hwi.symm, fun h1 => ?_⟩
  exact Option.some.inj (hj.symm.trans (decodeWords_of_words_one h h1 imm'))

/-! ### The decoder on bytes -/

theorem decode_words_one {b0 b1 : Byte} {rest : List Byte} {i : Instr}
    (h : decodeWords (wordOfBytes b0 b1) 0 = some i) (h1 : i.words = 1) : decode (b0 :: b1 :: rest) = .ok (i, rest) := by
  simp only [decode, h, h1, if_true]

theorem decode_words_two {b0 b1 b2 b3 : Byte} {rest : List Byte} {i j : Instr}
    (hj : decodeWords (wordOfBytes b0 b1) 0 = some j) (h2 : j.words = 2)
    (h : decodeWords (wordOfBytes b0 b1) (wordOfBytes b2 b3) = some i) :
    decode (b0 :: b1 :: b2 :: b3 :: rest) = .ok (i, rest) := by
  have h1 : ¬ j.words = 1 := by omega
  simp only [decode, hj, if_neg h1, h]

/-- Everything an answer of the decoder can be. -/
theorem decode_ok_cases {bs rest : List Byte} {i : Instr} (h : decode bs = .ok (i, rest)) :
    (∃ b0 b1, bs = b0 :: b1 :: rest ∧ decodeWords (wordOfBytes b0 b1) 0 = some i ∧ i.words = 1) ∨
      ∃ b0 b1 b2 b3 j, bs = b0 :: b1 :: b2 :: b3 :: rest ∧ decodeWords (wordOfBytes b0 b1) 0 = some j ∧ j.words ≠ 1 ∧
        decodeWords (wordOfBytes b0 b1) (wordOfBytes b2 b3) = some i := by
  unfold decode at h
  split at h
  · next b0 b1 _ =>
    split at h
    · cases h
    · next j hj =>
      split at h
      · next h1 => cases h; exact .inl ⟨b0, b1, rfl, hj, h1⟩
      · next h1 =>
        split at h
        · next b2 b3 _ =>
          split at h
          · cases h
          · next k hk => cases h; exact .inr ⟨b0, b1, b2, b3, j, rfl, hj, h1, hk⟩
        · cases h
        · cases h
  · cases h
  · cases h

theorem bytesOfWord_wordOfBytes (b0 b1 : Byte) : bytesOfWord (wordOfBytes b0 b1) = (b0, b1) :=
  Prod.ext (Machine.loByte_joinBytes b1 b0) (Machine.hiByte_joinBytes b1 b0)

/-- Settles O3: the word round trip, with the length that the first word tells. -/
theorem encodeThenDecode : Obligations.EncodeThenDecode := by
  intro i rest hwf
  rcases words_cases i with h1 | h2
  · have h : decodeWords (encodeWord i) 0 = some i := decodeWords_encodeWord hwf fun h2 => by omega
    rw [encode, if_neg (by omega)]
    exact decode_words_one (by rw [Machine.wordOfBytes_bytesOfWord, h]) h1
  · have h : decodeWords (encodeWord i) (encodeImm i) = some i := decodeWords_encodeWord hwf fun _ => rfl
    obtain ⟨j, hj, hwords⟩ := exists_decodeWords_words_eq h 0
    rw [encode, if_pos h2, bytesOfWords]
    refine decode_words_two (j := j) ?_ (hwords.trans h2) ?_
    · rw [Machine.wordOfBytes_bytesOfWord, hj]
    · rw [Machine.wordOfBytes_bytesOfWord, Machine.wordOfBytes_bytesOfWord, h]

/-- Settles O4: the decoder is faithful on words, and bytes make up a word in one way. -/
theorem decodeThenEncode : Obligations.DecodeThenEncode := by
  intro bs i rest h
  rcases decode_ok_cases h with ⟨b0, b1, rfl, hi, h1⟩ | ⟨b0, b1, b2, b3, j, rfl, hj, hne, hi⟩
  · obtain ⟨hwf, hw, -⟩ := wordOf_of_decodeWords hi
    refine ⟨hwf, ?_⟩
    rw [encode, if_neg (by omega), hw, bytesOfWord_wordOfBytes]; rfl
  · obtain ⟨hwf, hw, himm⟩ := wordOf_of_decodeWords hi
    have h1 : i.words ≠ 1 := fun h1 => hne (by
      rw [← h1, Option.some.inj (hj.symm.trans (decodeWords_of_words_one hi h1 0))])
    obtain ⟨h2, himm⟩ := himm.resolve_left h1
    refine ⟨hwf, ?_⟩
    rw [encode, if_pos h2, hw, himm, bytesOfWords, bytesOfWord_wordOfBytes, bytesOfWord_wordOfBytes]; rfl

end Sys2Proof

/-! ### The fetch (R45, R46, R52) -/

namespace Sys2Proof.Machine

theorem even_iff_toNat {a : Word} : a.getLsbD 0 = false ↔ a.toNat % 2 = 0 := by
  rw [← BitVec.testBit_toNat, Nat.testBit_zero, decide_eq_false_iff_not]
  omega

/-- An even address is not the last one, so that the address after it does not wrap. -/
theorem ne_last_of_even {a : Word} (h : a.getLsbD 0 = false) : a ≠ 0xffff := by
  rintro rfl; exact absurd h (by decide)

theorem toNat_add_two {a : Word} (h : a.toNat + 2 < 65536) : (a + 2).toNat = a.toNat + 2 := by
  rw [BitVec.toNat_add]
  exact Nat.mod_eq_of_lt h

theorem even_add_two {a : Word} (h : a.getLsbD 0 = false) : (a + 2).getLsbD 0 = false :=
  even_add_two_mul (b := 1) h

theorem fetchWord_ok {s : State} {a : Word} (ha : a ≠ 0xffff) (h0 : a.toNat ∉ s.stored) (h1 : a.toNat + 1 ∉ s.stored) :
    fetchWord s a = .ok (wordOfBytes (s.readByte a) (s.readByte (a + 1))) := by
  rw [fetchWord, State.wasStored, State.wasStored, toNat_succ ha]
  simp [h0, h1]

theorem fetchWord_stored {s : State} {a : Word} (ha : a ≠ 0xffff) (h : a.toNat ∈ s.stored ∨ a.toNat + 1 ∈ s.stored) :
    fetchWord s a = .error .selfModifying := by
  rw [fetchWord, State.wasStored, State.wasStored, toNat_succ ha]
  exact if_pos (by simpa using h)

section
variable {s : State} {w imm : Word} {i j : Instr} {e : Refusal}

theorem fetch_oddPc (h : s.pc.getLsbD 0 = true) : fetch s = .error .oddPc := by
  simp only [fetch, h, if_true]

variable (hpc : s.pc.getLsbD 0 = false)
include hpc

theorem fetch_first_error (hw : fetchWord s s.pc = .error e) : fetch s = .error e := by
  rw [fetch, hpc, hw]
  simp only [Bool.false_eq_true, if_false]

theorem fetch_undecodable (hw : fetchWord s s.pc = .ok w) (hi : decodeWords w 0 = none) :
    fetch s = .error .unassignedEncoding := by
  rw [fetch, hpc, hw]
  simp only [Bool.false_eq_true, if_false, hi]

theorem fetch_words_one (hw : fetchWord s s.pc = .ok w) (hi : decodeWords w 0 = some i) (h1 : i.words = 1) :
    fetch s = .ok i := by
  rw [fetch, hpc, hw]
  simp only [Bool.false_eq_true, if_false, hi, h1, if_true]

theorem fetch_wraps (hw : fetchWord s s.pc = .ok w) (hi : decodeWords w 0 = some i) (h2 : i.words = 2)
    (hwrap : 65536 < s.pc.toNat + 4) : fetch s = .error .fetchWrap := by
  rw [fetch, hpc, hw]
  simp only [Bool.false_eq_true, if_false, hi, h2, OfNat.ofNat_ne_one, if_pos hwrap]

theorem fetch_second_error (hw : fetchWord s s.pc = .ok w) (hi : decodeWords w 0 = some i) (h2 : i.words = 2)
    (hin : s.pc.toNat + 4 ≤ 65536) (himm : fetchWord s (s.pc + 2) = .error e) : fetch s = .error e := by
  rw [fetch, hpc, hw]
  simp only [Bool.false_eq_true, if_false, hi, h2, OfNat.ofNat_ne_one, if_neg (Nat.not_lt.mpr hin), himm]

theorem fetch_words_two (hw : fetchWord s s.pc = .ok w) (hi : decodeWords w 0 = some i) (h2 : i.words = 2)
    (hin : s.pc.toNat + 4 ≤ 65536) (himm : fetchWord s (s.pc + 2) = .ok imm) (hj : decodeWords w imm = some j) :
    fetch s = .ok j := by
  rw [fetch, hpc, hw]
  simp only [Bool.false_eq_true, if_false, hi, h2, OfNat.ofNat_ne_one, if_neg (Nat.not_lt.mpr hin), himm, hj]

end

theorem step_of_fetch {s : State} {i : Instr} (h : fetch s = .ok i) : step s = exec i s := by
  rw [step, h]

theorem step_of_fetch_error {s : State} {e : Refusal} (h : fetch s = .error e) : step s = .refused e := by
  rw [step, h]

/-- What the decoder finds in the bytes at an even `pc`, the fetch finds there too if it may read them. -/
theorem fetch_of_decode {s : State} {i : Instr} {rest : List Byte} (hpc : s.pc.getLsbD 0 = false)
    (hd : decode (codeBytes s) = .ok (i, rest)) (hin : s.pc.toNat + 2 * i.words ≤ 65536)
    (hst : ∀ k, k < 2 * i.words → s.pc.toNat + k ∉ s.stored) : fetch s = .ok i := by
  have hlast := ne_last_of_even hpc
  have hpos : 0 < i.words := by rcases words_cases i with h | h <;> omega
  have hw := fetchWord_ok hlast (hst 0 (by omega)) (hst 1 (by omega))
  rcases decode_ok_cases hd with ⟨b0, b1, hb, hi, h1⟩ | ⟨b0, b1, b2, b3, j, hb, hj, hne, hi⟩
  · cases hb
    exact fetch_words_one hpc hw hi h1
  · cases hb
    obtain ⟨_, hi0, hwords⟩ := exists_decodeWords_words_eq hj (wordOfBytes (s.readByte (s.pc + 2)) (s.readByte (s.pc + 3)))
    cases hi0.symm.trans hi
    have h2 : i.words = 2 := (words_cases i).resolve_left fun h => hne (hwords ▸ h)
    have h2' : (s.pc + 2).toNat = s.pc.toNat + 2 := toNat_add_two (by omega)
    have himm : fetchWord s (s.pc + 2) = .ok (wordOfBytes (s.readByte (s.pc + 2)) (s.readByte (s.pc + 2 + 1))) :=
      fetchWord_ok (ne_last_of_even (even_add_two hpc)) (by rw [h2']; exact hst 2 (by omega))
        (by rw [h2']; exact hst 3 (by omega))
    rw [BitVec.add_assoc] at himm
    exact fetch_words_two hpc hw hj (hwords ▸ h2) (by omega) himm hi

/-- Settles O1. -/
theorem stepRunsDecodedInstruction : Obligations.StepRunsDecodedInstruction := by
  intro s i rest hpc hd hin hst
  exact ⟨(decodeThenEncode _ i rest hd).1, step_of_fetch (fetch_of_decode hpc hd hin hst)⟩

/-- Settles O7: the stops of the fetch, one after the other. -/
theorem fetchStops : Obligations.FetchStops := by
  intro s
  refine ⟨fun h => step_of_fetch_error (fetch_oddPc h), fun hpc hst => ?_, fun hpc h0 h1 => ?_⟩
  · exact step_of_fetch_error (fetch_first_error hpc (fetchWord_stored (ne_last_of_even hpc) hst))
  have hw : fetchWord s s.pc = .ok (codeWord s) := fetchWord_ok (ne_last_of_even hpc) h0 h1
  refine ⟨fun hi => step_of_fetch_error (fetch_undecodable hpc hw hi), fun i hi h2 => ⟨fun hwrap => ?_, fun hin hst => ?_⟩⟩
  · refine step_of_fetch_error (fetch_wraps hpc hw hi h2 ?_)
    rw [hwrap]; decide
  · have heven := even_iff_toNat.mp hpc
    have hne : s.pc.toNat ≠ 65534 := fun e => hin (BitVec.eq_of_toNat_eq e)
    have hlt := s.pc.isLt
    have h2' : (s.pc + 2).toNat = s.pc.toNat + 2 := toNat_add_two (by omega)
    refine step_of_fetch_error (fetch_second_error hpc hw hi h2 (by omega) ?_)
    exact fetchWord_stored (ne_last_of_even (even_add_two hpc)) (by rw [h2']; exact hst)

/-- Settles O8: each of the nine arms is the refusal itself. -/
theorem unassignedRowsStop : Obligations.UnassignedRowsStop := by
  intro s r k code data imm
  exact List.forall_iff_forall_mem.mp ⟨rfl, rfl, rfl, rfl, rfl, rfl, rfl, rfl, rfl⟩

end Sys2Proof.Machine

namespace Sys2Proof

theorem decode_encode_nil {i : Instr} (h : i.wf = true) : decode (encode i) = .ok (i, []) := by
  have := encodeThenDecode i [] h
  rwa [List.append_nil] at this

/-- Settles O2: the bytes are the ones that the encoder gives for the instruction. -/
theorem specWordsDecode : Obligations.SpecWordsDecode :=
  ⟨decode_encode_nil (i := .add8RegSrc .b (.reg .a)) rfl, decode_encode_nil (i := .sub16RegSrc .ba (.reg .dc)) rfl,
    decode_encode_nil (i := .revsub8RegImm .a 10) rfl, decode_encode_nil (i := .neg8RegReg .c .a) rfl,
    decode_encode_nil (i := .or8ZpReg 0x10 .a) rfl, decode_encode_nil (i := .shl16RegSrc8 .ba (.reg .c)) rfl,
    decode_encode_nil (i := .shl8RegImm .a 1) rfl, decode_encode_nil (i := .mul8RegSrc8 .g (.reg .e)) rfl,
    decode_encode_nil (i := .mov16DestReg .stack .ba) rfl, decode_encode_nil (i := .not8RegReg .c .a) rfl,
    decode_encode_nil (i := .swap8DestReg (.reg .c) .a) rfl, decode_encode_nil (i := .jumpSrc (.imm 0x0200)) rfl,
    decode_encode_nil (i := .ret) rfl, decode_encode_nil (i := .branchCall 5) rfl⟩

end Sys2Proof

/-! ### Reset, registers and words in memory -/

namespace Sys2Proof.Machine

/-- Settles O9. -/
theorem resetState : Obligations.ResetState :=
  ⟨rfl, fun r => by cases r <;> rfl, rfl, rfl, fun _ => rfl, rfl⟩

/-- Settles O10. -/
theorem resetMeetsInvariant : Obligations.ResetMeetsInvariant := ⟨rfl, rfl, rfl⟩

theorem joinBytes_toNat (hi lo : Byte) : (joinBytes hi lo).toNat = 256 * hi.toNat + lo.toNat := by
  unfold joinBytes
  rw [BitVec.toNat_append, Nat.shiftLeft_eq, Nat.mul_comm, ← Nat.two_pow_add_eq_or_of_lt lo.isLt]

theorem loByte_eq_ofNat (v : Word) : loByte v = BitVec.ofNat 8 (v.toNat % 256) := by
  apply BitVec.eq_of_toNat_eq
  simp [loByte, BitVec.extractLsb'_toNat]

theorem setReg8_keepsRest (s : State) (r : Reg8) (v : Byte) : KeepsRest s (s.setReg8 r v) :=
  ⟨setReg8_pc s r v, setReg8_flags s r v, setReg8_mem s r v, setReg8_stored s r v⟩

theorem setReg16_keepsRest (s : State) (k : Reg16) (v : Word) : KeepsRest s (s.setReg16 k v) :=
  ⟨setReg16_pc s k v, setReg16_flags s k v, setReg16_mem s k v, setReg16_stored s k v⟩

/-- Settles O14. -/
theorem pairsViewRegisters : Obligations.PairsViewRegisters := fun s =>
  ⟨⟨joinBytes_toNat _ _, joinBytes_toNat _ _, joinBytes_toNat _ _, joinBytes_toNat _ _⟩,
    fun k v => ⟨setsReg16_setReg16 s k v, setReg16_keepsRest s k v, setReg16_p s k v, setReg16_draws s k v⟩,
    fun r v => ⟨setsReg8_setReg8 s r v, setReg8_keepsRest s r v, setReg8_p s r v, setReg8_draws s r v,
      fun _ hk => reg16_setReg8_of_ne hk.symm⟩⟩

theorem readWord_ok {s : State} {a : Word} (h : a ≠ 0xffff) :
    s.readWord a = .ok (joinBytes (s.readByte (a + 1)) (s.readByte a)) :=
  ((readWord_cases s a).resolve_left fun e => h e.1).2

theorem readWord_last (s : State) : s.readWord 0xffff = .error .accessWrap := rfl

theorem storeWord_ok {s : State} {a v : Word} (h : a ≠ 0xffff) :
    s.storeWord a v = .ok ((s.storeByte a (loByte v)).storeByte (a + 1) (hiByte v)) :=
  ((storeWord_cases s a v).resolve_left fun e => h e.1).2

theorem storeWord_last (s : State) (v : Word) : s.storeWord 0xffff v = .error .accessWrap := rfl

/-- A word stored reads back. -/
theorem StoresWord.readWord {s t : State} {a v : Word} (h : StoresWord s t a v) (ha : a ≠ 0xffff) :
    t.readWord a = .ok v := by
  obtain ⟨hlo, hhi, -, -⟩ := h
  rw [readWord_ok ha, hlo, hhi, joinBytes_hiByte_loByte]

/-- Settles O16. -/
theorem wordAccess : Obligations.WordAccess := by
  refine fun s a v => ⟨fun ha hw => ?_, readWord_ok, ?_⟩
  · have h := storesWord_of (s := s) (v := v) ha rfl rfl hw rfl rfl
    exact ⟨_, storeWord_ok ha, h, h.readWord ha⟩
  · rintro rfl; exact ⟨storeWord_last s v, readWord_last s⟩

/-! ### Memory forms (R99 to R103) -/

/-- A memory form's code is one in every role. -/
theorem decode_mem_roles {op : BitVec 6} {imm : Word} {m : MemMode} (h : decodeMem op imm = some m) :
    decodeByteSrc op imm = some (.mem m) ∧ decodeWordSrc op imm = some (.mem m) ∧ decodeByteDest op imm = some (.mem m) ∧
      decodeWordDest op imm = some (.mem m) ∧ decodeSrc8 op imm = some (.mem m) := by
  obtain ⟨hwf, rfl, hwords⟩ := decodeMem_some h
  have himm : m.words = 2 → imm = m.immWord := fun h2 => (hwords.resolve_left (by omega)).2.symm
  exact ⟨decodeByteSrc_code (src := .mem m) hwf himm, decodeWordSrc_code (src := .mem m) hwf himm,
    decodeByteDest_code (dst := .mem m) hwf himm, decodeWordDest_code (dst := .mem m) hwf himm,
    decodeSrc8_code (src := .mem m) hwf himm⟩

theorem decodeMem_indexed {base : BitVec 2} {index : BitVec 3} (imm : Word) (h : base ≠ index.extractLsb' 1 2) :
    decodeMem (1#1 ++ base ++ index) imm = some (.indexed (reg16OfNum base) (reg8OfNum index)) := by
  have hwf : (reg8OfNum index).pair ≠ reg16OfNum base := by revert base index; decide
  have := decodeMem_code (m := .indexed (reg16OfNum base) (reg8OfNum index)) (imm := imm) (decide_eq_true hwf) nofun
  rwa [MemMode.code, num_reg16OfNum, num_reg8OfNum] at this

theorem decodeMem_disp (base imm2 : BitVec 2) (imm : Word) :
    decodeMem (0b01#2 ++ base ++ imm2) imm = some (.disp (reg16OfNum base) imm2) := by
  have := decodeMem_code (m := .disp (reg16OfNum base) imm2) (imm := imm) rfl nofun
  rwa [MemMode.code, num_reg16OfNum] at this

theorem memAddr_indexed_toNat (k : Reg16) (r : Reg8) (n : Nat) (s : State) :
    (memAddr (.indexed k r) n s).toNat = ((s.reg16 k).toNat + (s.reg8 r).toNat) % 65536 := by
  rw [memAddr, BitVec.toNat_add, BitVec.toNat_setWidth]
  omega

theorem memAddr_disp_toNat (k : Reg16) (imm2 : BitVec 2) (n : Nat) (s : State) :
    (memAddr (.disp k imm2) n s).toNat = ((s.reg16 k).toNat + n * imm2.toNat) % 65536 := by
  rw [memAddr, BitVec.toNat_add, BitVec.toNat_ofNat]
  omega

/-- Settles O17. -/
theorem registerIndirectForms : Obligations.RegisterIndirectForms :=
  ⟨fun _ _ _ => decode_mem_roles, fun _ _ imm => decodeMem_indexed imm, decodeMem_disp, fun s k r imm2 n _ =>
    ⟨memAddr_indexed_toNat k r n s, rfl, memAddr_disp_toNat k imm2 n s, rfl⟩⟩

theorem pointerMoved_setReg16 (s : State) (k : Reg16) (v : Word) : PointerMoved s (s.setReg16 k v) k v :=
  ⟨setsReg16_setReg16 s k v, setReg16_p s k v, setReg16_draws s k v, setReg16_keepsRest s k v⟩

/-- Settles O18. -/
theorem pointerForms : Obligations.PointerForms := fun s k _ _ _ =>
  ⟨rfl, pointerMoved_setReg16 s k _, rfl, pointerMoved_setReg16 s k _, rfl, rfl⟩

/-! ### The stack (R104 to R107) -/

theorem stackMoved_setP (s : State) (v : Byte) : StackMoved s (s.setP v) v :=
  ⟨rfl, fun _ => rfl, rfl, rfl, rfl, rfl, rfl⟩

theorem pop_ok {s : State} {n : Nat} (h : s.p.toNat + n ≤ 256) :
    s.pop n = .ok (stackAddr s.p, s.setP (s.p + BitVec.ofNat 8 n)) :=
  ((pop_cases s n).resolve_left fun e => by omega).2

theorem pop_error {s : State} {n : Nat} (h : 256 < s.p.toNat + n) : s.pop n = .error .stackWrap :=
  ((pop_cases s n).resolve_right fun e => by omega).2

theorem push_ok {s : State} {n : Nat} (h : n ≤ s.p.toNat) :
    s.push n = .ok (stackAddr (s.p - BitVec.ofNat 8 n), s.setP (s.p - BitVec.ofNat 8 n)) :=
  ((push_cases s n).resolve_left fun e => by omega).2

theorem push_error {s : State} {n : Nat} (h : s.p.toNat < n) : s.push n = .error .stackWrap :=
  ((push_cases s n).resolve_right fun e => by omega).2

theorem top_ok {s : State} {n : Nat} (h : s.p.toNat + n ≤ 256) : s.top n = .ok (stackAddr s.p, s) :=
  ((top_cases s n).resolve_left fun e => by omega).2

theorem top_error {s : State} {n : Nat} (h : 256 < s.p.toNat + n) : s.top n = .error .stackWrap :=
  ((top_cases s n).resolve_right fun e => by omega).2

theorem readByte_stackAddr (s : State) (p : Byte) : s.readByte (stackAddr p) = s.mem.read (0x100 + p.toNat) := by
  rw [State.readByte, stackAddr_toNat]

theorem readWord_stackAddr (s : State) (p : Byte) : s.readWord (stackAddr p) =
    .ok (joinBytes (s.mem.read (0x101 + p.toNat)) (s.mem.read (0x100 + p.toNat))) := by
  rw [readWord_ok (stackAddr_ne_top p), readByte_stackAddr, State.readByte, toNat_succ (stackAddr_ne_top p),
    stackAddr_toNat, show 256 + p.toNat + 1 = 257 + p.toNat by omega]

/-- Below its last byte, the stack page holds a word at `p`. -/
theorem p_le_of_ne {p : Byte} (h : p ≠ 0xff) : p.toNat + 2 ≤ 256 := by
  have : p.toNat ≠ 255 := fun e => h (BitVec.eq_of_toNat_eq e)
  have := p.isLt
  omega

theorem p_toNat_sub {p : Byte} {n : Nat} (hn : n < 256) (h : n ≤ p.toNat) :
    (p - BitVec.ofNat 8 n).toNat = p.toNat - n := by
  rw [BitVec.toNat_sub_of_le (by rw [BitVec.le_def, BitVec.toNat_ofNat, Nat.mod_eq_of_lt hn]; exact h),
    BitVec.toNat_ofNat, Nat.mod_eq_of_lt hn]

/-! ### Sources -/

theorem evalByteSrc_pop (s : State) :
    evalByteSrc .pop s = .ok (s.mem.read (0x100 + s.p.toNat), s.setP (s.p + 1)) := by
  have hp := s.p.isLt
  simp only [evalByteSrc, pop_ok (s := s) (n := 1) (by omega), readByte_stackAddr]; rfl

/-- Settles O19. -/
theorem byteSourceForms : Obligations.ByteSourceForms := fun s _ v _ =>
  ⟨rfl, rfl, by rw [← loByte_eq_ofNat]; rfl, rfl, _, evalByteSrc_pop s, stackMoved_setP s _⟩

theorem evalWordSrc_mem {w : Word} {s : State} {m : MemMode} (h : memAddr m 2 s ≠ 0xffff) : evalWordSrc w (.mem m) s =
    .ok (joinBytes (s.readByte (memAddr m 2 s + 1)) (s.readByte (memAddr m 2 s)), memTouch m 2 s) := by
  simp only [evalWordSrc, readWord_ok h]

theorem evalWordSrc_mem_last {w : Word} {s : State} {m : MemMode} (h : memAddr m 2 s = 0xffff) :
    evalWordSrc w (.mem m) s = .error .accessWrap := by
  simp only [evalWordSrc, h, readWord_last]

theorem evalWordSrc_pop {w : Word} {s : State} (h : s.p ≠ 0xff) : evalWordSrc w .pop s =
    .ok (joinBytes (s.mem.read (0x101 + s.p.toNat)) (s.mem.read (0x100 + s.p.toNat)), s.setP (s.p + 2)) := by
  simp only [evalWordSrc, pop_ok (p_le_of_ne h), readWord_stackAddr]; rfl

theorem evalWordSrc_pop_last {w : Word} {s : State} (h : s.p = 0xff) : evalWordSrc w .pop s = .error .stackWrap := by
  have h2 : 256 < s.p.toNat + 2 := by rw [h]; decide
  simp only [evalWordSrc, pop_error h2]

theorem evalWordSrc_ext_sext {w : Word} (h : Config.ext16Select w = .sext) (s : State) (r : Reg8) :
    evalWordSrc w (.ext r) s = .ok ((s.reg8 r).signExtend 16, s) := by
  simp only [evalWordSrc, extend, h]

theorem evalWordSrc_ext_zext {w : Word} (h : Config.ext16Select w = .zext) (s : State) (r : Reg8) :
    evalWordSrc w (.ext r) s = .ok ((s.reg8 r).setWidth 16, s) := by
  simp only [evalWordSrc, extend, h]

/-- Settles O20. -/
theorem wordSourceForms : Obligations.WordSourceForms := by
  refine fun w => ⟨fun s k v m => ⟨rfl, ⟨s.sp, rfl, s.sp_toNat⟩, rfl, evalWordSrc_mem, evalWordSrc_mem_last,
    fun hp => ⟨_, evalWordSrc_pop hp, stackMoved_setP s _⟩, evalWordSrc_pop_last⟩, ?_⟩
  cases h : Config.ext16Select w with
  | sext => exact .inl (evalWordSrc_ext_sext h)
  | zext => exact .inr fun s r => by rw [BitVec.ofNat_toNat]; exact evalWordSrc_ext_zext h s r

theorem src8StepWord_cases : src8StepWord = 1 ∨ src8StepWord = 2 := by
  unfold src8StepWord
  split
  · exact .inl rfl
  · exact .inr rfl

theorem evalSrc8_pop {s : State} {n : Nat} (h : s.p.toNat + n ≤ 256) :
    evalSrc8 n .pop s = .ok (s.mem.read (0x100 + s.p.toNat), s.setP (s.p + BitVec.ofNat 8 n)) := by
  simp only [evalSrc8, pop_ok h, readByte_stackAddr]

theorem evalSrc8_pop_error {s : State} {n : Nat} (h : 256 < s.p.toNat + n) : evalSrc8 n .pop s = .error .stackWrap := by
  simp only [evalSrc8, pop_error h]

/-- Settles O21. -/
theorem countSourceForms : Obligations.CountSourceForms :=
  ⟨rfl, src8StepWord_cases, fun s _ v _ _ _ => ⟨rfl, rfl, by rw [← loByte_eq_ofNat]; rfl, rfl,
    fun h => ⟨_, evalSrc8_pop h, stackMoved_setP s _⟩, evalSrc8_pop_error⟩⟩

/-! ### Destinations -/

theorem evalByteDest_push {s : State} (h : 1 ≤ s.p.toNat) :
    evalByteDest .write .stack s = .ok (.mem (stackAddr (s.p - 1)), s.setP (s.p - 1)) := by
  simp only [evalByteDest, destStack, push_ok h]; rfl

theorem evalByteDest_push_error {s : State} (h : s.p.toNat < 1) :
    evalByteDest .write .stack s = .error .stackWrap := by
  simp only [evalByteDest, destStack, push_error h]

theorem evalByteDest_top (s : State) : evalByteDest .modify .stack s = .ok (.mem (stackAddr s.p), s) := by
  have hp := s.p.isLt
  simp only [evalByteDest, destStack, top_ok (s := s) (n := 1) (by omega)]

/-- Settles O22. -/
theorem byteDestinationForms : Obligations.ByteDestinationForms := by
  refine fun s role r m => ⟨rfl, rfl, rfl, rfl, fun h => ?_, fun h => ?_, _, evalByteDest_top s, stackAddr_toNat _⟩
  · exact evalByteDest_push_error (by rw [h]; decide)
  · have hp : 1 ≤ s.p.toNat := Nat.one_le_iff_ne_zero.mpr fun e => h (BitVec.eq_of_toNat_eq e)
    refine ⟨_, _, evalByteDest_push hp, ?_, stackMoved_setP s _⟩
    exact (stackAddr_toNat _).trans (congrArg (256 + ·) (p_toNat_sub (n := 1) (by decide) hp))

theorem evalWordDest_push {s : State} (h : 2 ≤ s.p.toNat) :
    evalWordDest .write .stack s = .ok (.mem (stackAddr (s.p - 2)), s.setP (s.p - 2)) := by
  simp only [evalWordDest, destStack, push_ok h]; rfl

theorem evalWordDest_push_error {s : State} (h : s.p.toNat < 2) :
    evalWordDest .write .stack s = .error .stackWrap := by
  simp only [evalWordDest, destStack, push_error h]

theorem evalWordDest_top {s : State} (h : s.p ≠ 0xff) :
    evalWordDest .modify .stack s = .ok (.mem (stackAddr s.p), s) := by
  simp only [evalWordDest, destStack, top_ok (p_le_of_ne h)]

theorem evalWordDest_top_error {s : State} (h : s.p = 0xff) : evalWordDest .modify .stack s = .error .stackWrap := by
  have h2 : 256 < s.p.toNat + 2 := by rw [h]; decide
  simp only [evalWordDest, destStack, top_error h2]

/-- Settles O23. -/
theorem wordDestinationForms : Obligations.WordDestinationForms := by
  refine fun s role k m => ⟨rfl, rfl, rfl, evalWordDest_push_error, fun h => ?_, evalWordDest_top_error,
    fun h => ⟨_, evalWordDest_top h, stackAddr_toNat _⟩⟩
  refine ⟨_, _, evalWordDest_push h, ?_, stackMoved_setP s _⟩
  exact (stackAddr_toNat _).trans (congrArg (256 + ·) (p_toNat_sub (n := 2) (by decide) h))

/-! ### The operand `flags` (R24, R25) -/

theorem flagsByte_bits (s : State) : s.flagsByte.getLsbD 0 = s.flags.z ∧ s.flagsByte.getLsbD 1 = s.flags.s ∧
    s.flagsByte.getLsbD 2 = s.flags.v ∧ s.flagsByte.getLsbD 3 = s.flags.c ∧ s.flagsByte.extractLsb' 4 4 = s.draw := by
  refine ⟨?_, ?_, ?_, ?_, BitVec.extractLsb'_append_eq_left⟩ <;>
    simp only [State.flagsByte, Flags.bits, BitVec.getLsbD_append] <;> simp

theorem flagsOfBits_low (v : Byte) : flagsOfBits (v.extractLsb' 0 4) =
    { z := v.getLsbD 0, s := v.getLsbD 1, v := v.getLsbD 2, c := v.getLsbD 3 } := by
  simp [flagsOfBits]

/-- Settles O24. -/
theorem flagsOperand : Obligations.FlagsOperand := by
  intro s
  obtain ⟨hz, hs, hv, hc, hdraw⟩ := flagsByte_bits s
  refine ⟨⟨s.flagsByte, s.drawn, rfl, hz, hs, hv, hc, hdraw, fun _ => rfl, rfl, rfl, rfl, rfl, rfl, rfl⟩, fun r => ?_⟩
  exact ⟨_, rfl, flagsOfBits_low (s.reg8 r), fun _ => rfl, rfl, rfl, rfl, rfl, rfl⟩

end Sys2Proof.Machine

/-! ### The instructions of each form are that form with their operation -/

namespace Sys2Proof.Machine

theorem exec_byteRegSrcOps (r : Reg8) (src : ByteSrc) (s : State) :
    ∀ e ∈ byteRegSrcOps r src, exec e.1 s = byteRegSrc e.2 r src s :=
  List.forall_iff_forall_mem.mp ⟨rfl, rfl, rfl, rfl, rfl, rfl, rfl⟩

theorem exec_byteRegImmOps (r : Reg8) (imm : BitVec 6) (s : State) :
    ∀ e ∈ byteRegImmOps r imm, exec e.1 s = byteRegValue e.2 r (imm.signExtend 8) s :=
  List.forall_iff_forall_mem.mp ⟨rfl, rfl, rfl, rfl, rfl, rfl, rfl⟩

theorem exec_byteRegZpOps (r : Reg8) (zp : BitVec 7) (s : State) :
    ∀ e ∈ byteRegZpOps r zp, exec e.1 s = byteRegValue e.2 r (s.readByte (zpByteAddr zp)) s :=
  List.forall_iff_forall_mem.mp ⟨rfl, rfl, rfl, rfl, rfl, rfl, rfl⟩

theorem exec_byteZpRegOps (zp : BitVec 7) (r : Reg8) (s : State) :
    ∀ e ∈ byteZpRegOps zp r, exec e.1 s = byteZpReg e.2 zp r s :=
  List.forall_iff_forall_mem.mp ⟨rfl, rfl, rfl, rfl, rfl, rfl, rfl⟩

theorem exec_byteDestRegOps (dst : ByteDest) (r : Reg8) (s : State) :
    ∀ e ∈ byteDestRegOps dst r, exec e.1 s = byteDestReg e.2 dst r s :=
  List.forall_iff_forall_mem.mp ⟨rfl, rfl, rfl, rfl, rfl, rfl, rfl⟩

theorem exec_byteRegRegOps (r1 r2 : Reg8) (s : State) :
    ∀ e ∈ byteRegRegOps r1 r2, exec e.1 s = byteRegValue e.2 r1 (s.reg8 r2) s :=
  List.forall_iff_forall_mem.mp ⟨rfl, rfl, rfl, rfl, rfl, rfl, rfl⟩

theorem exec_byteCompareSrcOps (r : Reg8) (src : ByteSrc) (s : State) :
    ∀ e ∈ byteCompareSrcOps r src, exec e.1 s = byteCompareSrc e.2 r src s :=
  List.forall_iff_forall_mem.mp ⟨rfl, rfl⟩

theorem exec_byteCompareZpOps (r : Reg8) (zp : BitVec 7) (s : State) :
    ∀ e ∈ byteCompareZpOps r zp, exec e.1 s = byteCompareValue e.2 r (s.readByte (zpByteAddr zp)) s :=
  List.forall_iff_forall_mem.mp ⟨rfl, rfl⟩

theorem exec_byteShiftSrcOps (r : Reg8) (src : Src8) (s : State) :
    ∀ e ∈ byteShiftSrcOps r src, exec e.1 s = byteShiftSrc8 e.2 r src s :=
  List.forall_iff_forall_mem.mp ⟨rfl, rfl, rfl, rfl, rfl⟩

theorem exec_byteShiftImmOps (r : Reg8) (imm : BitVec 4) (s : State) :
    ∀ e ∈ byteShiftImmOps r imm, exec e.1 s = byteShiftImm e.2 r imm s :=
  List.forall_iff_forall_mem.mp ⟨rfl, rfl, rfl, rfl⟩

theorem exec_wordRegSrcOps (r : Reg16) (src : WordSrc) (s : State) :
    ∀ e ∈ wordRegSrcOps r src, exec e.1 s = wordRegSrc e.2 (encodeWord e.1) r src s :=
  List.forall_iff_forall_mem.mp ⟨rfl, rfl, rfl, rfl, rfl, rfl, rfl⟩

theorem exec_wordRegImmOps (r : Reg16) (imm : BitVec 6) (s : State) :
    ∀ e ∈ wordRegImmOps r imm, exec e.1 s = wordRegValue e.2 r (imm.signExtend 16) s :=
  List.forall_iff_forall_mem.mp ⟨rfl, rfl, rfl, rfl, rfl, rfl, rfl⟩

theorem exec_wordRegZpOps (r : Reg16) (zp : BitVec 7) (s : State) :
    ∀ e ∈ wordRegZpOps r zp, exec e.1 s = wordRegZp e.2 r zp s :=
  List.forall_iff_forall_mem.mp ⟨rfl, rfl, rfl, rfl, rfl, rfl, rfl⟩

theorem exec_wordZpRegOps (zp : BitVec 7) (r : Reg16) (s : State) :
    ∀ e ∈ wordZpRegOps zp r, exec e.1 s = wordZpReg e.2 zp r s :=
  List.forall_iff_forall_mem.mp ⟨rfl, rfl, rfl, rfl, rfl, rfl, rfl⟩

theorem exec_wordDestRegOps (dst : WordDest) (r : Reg16) (s : State) :
    ∀ e ∈ wordDestRegOps dst r, exec e.1 s = wordDestReg e.2 dst r s :=
  List.forall_iff_forall_mem.mp ⟨rfl, rfl, rfl, rfl, rfl, rfl, rfl⟩

theorem exec_wordRegRegOps (r1 r2 : Reg16) (s : State) :
    ∀ e ∈ wordRegRegOps r1 r2, exec e.1 s = wordRegValue e.2 r1 (s.reg16 r2) s :=
  List.forall_iff_forall_mem.mp ⟨rfl, rfl, rfl, rfl, rfl, rfl, rfl⟩

theorem exec_wordCompareSrcOps (r : Reg16) (src : WordSrc) (s : State) :
    ∀ e ∈ wordCompareSrcOps r src, exec e.1 s = wordCompareSrc e.2 (encodeWord e.1) r src s :=
  List.forall_iff_forall_mem.mp ⟨rfl, rfl⟩

theorem exec_wordCompareZpOps (r : Reg16) (zp : BitVec 7) (s : State) :
    ∀ e ∈ wordCompareZpOps r zp, exec e.1 s = wordCompareZp e.2 r zp s :=
  List.forall_iff_forall_mem.mp ⟨rfl, rfl⟩

theorem exec_wordShiftSrcOps (r : Reg16) (src : Src8) (s : State) :
    ∀ e ∈ wordShiftSrcOps r src, exec e.1 s = wordShiftSrc8 e.2 r src s :=
  List.forall_iff_forall_mem.mp ⟨rfl, rfl, rfl, rfl, rfl⟩

theorem exec_wordShiftImmOps (r : Reg16) (imm : BitVec 4) (s : State) :
    ∀ e ∈ wordShiftImmOps r imm, exec e.1 s = wordShiftImm e.2 r imm s :=
  List.forall_iff_forall_mem.mp ⟨rfl, rfl, rfl, rfl⟩

/-! ### Binary operations -/

/-- Settles O34. -/
theorem byteBinopRegSrcResult : Obligations.ByteBinopRegSrcResult := by
  intro r src s s1 v hp he e hmem
  rw [exec_byteRegSrcOps r src s e hmem]
  exact byteRegSrc_answers hp he

/-- Settles O35. -/
theorem wordBinopRegSrcResult : Obligations.WordBinopRegSrcResult := by
  intro r src s s1 v hp e hmem he
  rw [exec_wordRegSrcOps r src s e hmem]
  exact wordRegSrc_answers hp he

/-- Settles O36: the sign extension is the number that the immediate denotes. -/
theorem binopRegImmResult : Obligations.BinopRegImmResult := by
  refine fun imm s => ⟨fun r e hmem => ?_, fun r e hmem => ?_⟩
  · rw [exec_byteRegImmOps r imm s e hmem]; exact byteRegValue_answers
  · rw [exec_wordRegImmOps r imm s e hmem]; exact wordRegValue_answers

/-- Settles O37. -/
theorem alternateResult : Obligations.AlternateResult := by
  refine fun s => ⟨fun r1 r2 e hmem => ?_, fun r1 r2 e hmem => ?_⟩
  · rw [exec_byteRegRegOps r1 r2 s e hmem]; exact byteRegValue_answers
  · rw [exec_wordRegRegOps r1 r2 s e hmem]; exact wordRegValue_answers

/-- Settles O38. -/
theorem binopRegZpResult : Obligations.BinopRegZpResult := by
  refine fun zp s => ⟨fun r e hmem => ?_, fun r e hmem => ?_⟩
  · rw [exec_byteRegZpOps r zp s e hmem]; exact byteRegValue_answers
  · rw [exec_wordRegZpOps r zp s e hmem]; exact wordRegZp_answers

/-- Settles O39. -/
theorem binopZpRegResult : Obligations.BinopZpRegResult := by
  refine fun zp s hw => ⟨fun r e hmem => ?_, fun r e hmem => ?_⟩
  · rw [exec_byteZpRegOps zp r s e hmem]; exact byteZpReg_answers hw
  · rw [exec_wordZpRegOps zp r s e hmem]; exact wordZpReg_answers hw

/-- Settles O40. -/
theorem byteBinopDestRegResult : Obligations.ByteBinopDestRegResult := by
  intro dst r s s1 loc e hmem
  rw [exec_byteDestRegOps dst r s e hmem]
  exact ⟨fun hf => if_pos hf, fun hf hw hp he => byteDestReg_answers hf hw hp he⟩

/-- Settles O41. -/
theorem wordBinopDestRegResult : Obligations.WordBinopDestRegResult := by
  intro dst r s s1 loc e hmem hw hp he ok
  rw [exec_wordDestRegOps dst r s e hmem]
  exact wordDestReg_answers hw hp he ok

/-! ### Comparisons -/

/-- Only `001rrr` can denote an extension (R96). -/
theorem zextUnderCompare_of_ne_ext {w : Word} {src : WordSrc} (h : ∀ q, src ≠ .ext q) : zextUnderCompare w src = false := by
  cases src with
  | ext q => exact absurd rfl (h q)
  | reg | sp | imm | pop | mem => rfl

/-- `cmp` and `test` with `001rrr` where the code is the sign extension (R96). -/
theorem wordCompareSrc_ext_sext {op : BinOp} {w : Word} {r : Reg16} {q : Reg8} {s : State}
    (h : Config.ext16Select w = .sext) : Answers (wordCompareSrc op w r (.ext q) s)
      (FlagsOutcome s s (specFlags op (s.reg16 r) ((s.reg8 q).signExtend 16) s.flags) 1) :=
  wordCompareSrc_answers (by simp [zextUnderCompare, h]) nofun (evalWordSrc_ext_sext h s q)

/-- `cmp` and `test` with `001rrr` where the code is the zero extension (R96). -/
theorem wordCompareSrc_ext_zext {op : BinOp} {w : Word} {r : Reg16} {q : Reg8} {s : State}
    (h : Config.ext16Select w = .zext) : wordCompareSrc op w r (.ext q) s = .refused .unassignedEncoding :=
  if_pos (decide_eq_true h)

theorem wordCompareZp_answers {op : BinOp} {r : Reg16} {zp : BitVec 7} {s : State} : Answers (wordCompareZp op r zp s)
    (FlagsOutcome s s (specFlags op (s.reg16 r) (wordLocValue (.mem (zpWordAddr zp)) s) s.flags) 1) := by
  simp only [wordCompareZp, readWord_zp]
  exact wordCompareValue_answers

/-- Settles O42: either value of the open parameter is one clause of the last part. -/
theorem compareSrcFlags : Obligations.CompareSrcFlags := by
  refine ⟨fun r src s s1 v hp he e hmem => ?_, fun r src s s1 v hp hext e hmem he => ?_, fun r q s e hmem => ?_⟩
  · rw [exec_byteCompareSrcOps r src s e hmem]
    exact byteCompareSrc_answers hp he
  · rw [exec_wordCompareSrcOps r src s e hmem]
    exact wordCompareSrc_answers (zextUnderCompare_of_ne_ext hext) hp he
  · rw [exec_wordCompareSrcOps r (.ext q) s e hmem]
    cases h : Config.ext16Select (encodeWord e.1) with
    | sext => exact .inl ⟨rfl, wordCompareSrc_ext_sext h⟩
    | zext => exact .inr ⟨rfl, wordCompareSrc_ext_zext h⟩

/-- Settles O43. -/
theorem compareValueFlags : Obligations.CompareValueFlags := by
  refine fun imm zp s => ⟨fun r => byteCompareValue_answers, fun r => wordCompareValue_answers, fun r e hmem => ?_,
    fun r e hmem => ?_⟩
  · rw [exec_byteCompareZpOps r zp s e hmem]; exact byteCompareValue_answers
  · rw [exec_wordCompareZpOps r zp s e hmem]; exact wordCompareZp_answers

/-- The flags of a difference make every condition mean what its name says (R212). -/
theorem conditionsMean_specFlags_sub {w : Nat} (x y : BitVec w) (f : Flags) : ConditionsMean x y (specFlags .sub x y f) := by
  have hz : x - y = 0 ↔ x = y := sub_eq_zero
  have hu : x = y ↔ x.toNat = y.toNat := BitVec.toNat_inj.symm
  have hi : x = y ↔ x.toInt = y.toInt := BitVec.toInt_inj.symm
  simp only [ConditionsMean, Cond.holds, specFlags, specResult, specCarry, specSignedCarry, hz, Bool.and_eq_true,
    Bool.or_eq_true, Bool.not_eq_true', decide_eq_true_eq, decide_eq_false_iff_not, ne_eq, true_and]
  refine ⟨by omega, ?_, ?_, by omega, ?_, ?_⟩
  · rw [hu]; omega
  · rw [hu]; omega
  · rw [hi]; omega
  · rw [hi]; omega

/-- An answer to `cmp x, y`, by its flags. -/
theorem conditionsMean_of_flagsOutcome {w : Nat} {x y : BitVec w} {r : Result} {s s1 : State} {f : Flags} {words : Nat}
    (h : Answers r (FlagsOutcome s s1 (specFlags .sub x y f) words)) : Answers r fun t => ConditionsMean x y t.flags := by
  obtain ⟨t, hr, -, hf, -⟩ := h
  exact ⟨t, hr, (congrArg (ConditionsMean x y) hf).mpr (conditionsMean_specFlags_sub x y f)⟩

/-- Settles O44: the flags of each form of `cmp` are the ones of O42 and O43. -/
theorem conditionsAfterCompare : Obligations.ConditionsAfterCompare := by
  refine ⟨fun r src s s1 v hp he => conditionsMean_of_flagsOutcome (byteCompareSrc_answers hp he),
    fun r src s s1 v hp hext he => conditionsMean_of_flagsOutcome
      (wordCompareSrc_answers (zextUnderCompare_of_ne_ext hext) hp he), fun r q s => ?_, fun imm zp r k s =>
    ⟨conditionsMean_of_flagsOutcome byteCompareValue_answers, conditionsMean_of_flagsOutcome wordCompareValue_answers,
      conditionsMean_of_flagsOutcome byteCompareValue_answers, conditionsMean_of_flagsOutcome wordCompareZp_answers⟩⟩
  cases h : Config.ext16Select (encodeWord (.cmp16RegSrc r (.ext q))) with
  | sext => exact .inl ⟨rfl, conditionsMean_of_flagsOutcome (wordCompareSrc_ext_sext h)⟩
  | zext => exact .inr ⟨rfl, wordCompareSrc_ext_zext h⟩

/-! ### Shifts and multiply -/

/-- Settles O46. -/
theorem byteShiftSrcResult : Obligations.ByteShiftSrcResult := by
  intro r src s s1 q hp he e hmem
  rw [exec_byteShiftSrcOps r src s e hmem]
  exact byteShiftSrc8_answers hp he

/-- Settles O47. -/
theorem wordShiftSrcResult : Obligations.WordShiftSrcResult := by
  intro r src s s1 q hp he e hmem
  rw [exec_wordShiftSrcOps r src s e hmem]
  exact wordShiftSrc8_answers hp he

theorem specCount8_imm4 (op : ShiftOp) (imm : BitVec 4) :
    specCount8 op (imm.setWidth 8) = if op = .shr ∨ op = .sar then imm.toNat else imm.toNat % 8 := by
  have := imm.isLt
  cases op <;> simp [specCount8] <;> omega

theorem byteShiftImm_answers {op : ShiftOp} {r : Reg8} {imm : BitVec 4} {s : State} : Answers (byteShiftImm op r imm s)
    (ByteShiftOutcome s s r (specShift op (s.reg8 r) (specCount8 op (imm.setWidth 8))) 1) :=
  ⟨_, rfl, byteShift_outcome (Quiet.refl s) op r _ 1⟩

theorem wordShiftImm_answers {op : ShiftOp} {r : Reg16} {imm : BitVec 4} {s : State} : Answers (wordShiftImm op r imm s)
    (WordShiftOutcome s s r (specShift op (s.reg16 r) ((imm.setWidth 8).toNat % 16)) 1) :=
  ⟨_, rfl, wordShift_outcome (Quiet.refl s) op r _ 1⟩

/-- Settles O48. -/
theorem shiftImmResult : Obligations.ShiftImmResult := by
  refine fun imm s => ⟨fun r e hmem => ?_, fun r e hmem => ?_⟩
  · rw [exec_byteShiftImmOps r imm s e hmem, ← specCount8_imm4]
    exact byteShiftImm_answers
  · rw [exec_wordShiftImmOps r imm s e hmem]
    have h := wordShiftImm_answers (op := e.2) (r := r) (imm := imm) (s := s)
    rwa [BitVec.toNat_setWidth_of_le (show 4 ≤ 8 by decide), Nat.mod_eq_of_lt imm.isLt] at h

/-- What an 8-bit shift leaves in `reg`, by the shift function (O46, O48 give it as a number). -/
theorem reg8_of_byteShiftOutcome {op : ShiftOp} {r : Reg8} {x q : Byte} {res : Result} {s s1 : State} {words : Nat}
    (h : Answers res (ByteShiftOutcome s s1 r (specShift op x (specCount8 op q)) words)) :
    ∃ t, res = .next t ∧ t.reg8 r = shift op x (shiftCount8 op q) := by
  obtain ⟨t, hres, ⟨hr, -⟩, -⟩ := h
  exact ⟨t, hres, hr.trans (shift8_eq op x q).symm⟩

theorem reg16_of_wordShiftOutcome {op : ShiftOp} {r : Reg16} {x : Word} {q : Byte} {res : Result} {s s1 : State}
    {words : Nat} (h : Answers res (WordShiftOutcome s s1 r (specShift op x (q.toNat % 16)) words)) :
    ∃ t, res = .next t ∧ t.reg16 r = shift op x (shiftCount16 q) := by
  obtain ⟨t, hres, ⟨hr, -⟩, -⟩ := h
  exact ⟨t, hres, hr.trans (shift16_eq op x q).symm⟩

theorem shiftCount8_eq_ite (op : ShiftOp) (q : Byte) :
    shiftCount8 op q = if op = .shr ∨ op = .sar then q.toNat % 16 else q.toNat % 8 := by
  rw [shiftCount8_eq]
  cases op <;> rfl

/-- Settles O45. -/
theorem shiftCounts : Obligations.ShiftCounts := by
  refine ⟨shiftCount8_eq_ite, shiftCount16_eq, fun r src s s1 q hp he e hmem => ?_, fun r src s s1 q hp he e hmem => ?_,
    fun r imm s e hmem => ?_, fun r imm s e hmem => ?_⟩
  · rw [exec_byteShiftSrcOps r src s e hmem]
    exact reg8_of_byteShiftOutcome (byteShiftSrc8_answers hp he)
  · rw [exec_wordShiftSrcOps r src s e hmem]
    exact reg16_of_wordShiftOutcome (wordShiftSrc8_answers hp he)
  · rw [exec_byteShiftImmOps r imm s e hmem, BitVec.ofNat_toNat]
    exact reg8_of_byteShiftOutcome byteShiftImm_answers
  · rw [exec_wordShiftImmOps r imm s e hmem, BitVec.ofNat_toNat]
    exact reg16_of_wordShiftOutcome wordShiftImm_answers

theorem byteMulSrc8_answers {r : Reg8} {src : Src8} {s s1 : State} {q : Byte} (hp : src8Pointer src ≠ some r.pair)
    (hh : src8Pointer src ≠ some .hg) (he : evalSrc8 1 src s = .ok (q, s1)) :
    Answers (byteMulSrc8 r src s) (ByteMulOutcome s s1 r ((s.reg8 r).toNat * q.toNat) src.words) := by
  refine ⟨_, ?_, byteMul_outcome (evalSrc8_quiet he) r q src.words⟩
  simp only [byteMulSrc8, hp, hh, or_self, if_false, src8StepByte, he]

theorem wordMulSrc8_answers {r : Reg16} {src : Src8} {s s1 : State} {q : Byte} (hp : src8Pointer src ≠ some r)
    (hh : src8Pointer src ≠ some .hg) (he : evalSrc8 src8StepWord src s = .ok (q, s1)) :
    Answers (wordMulSrc8 r src s) (WordMulOutcome s s1 r ((s.reg16 r).toNat * q.toNat) src.words) := by
  refine ⟨_, ?_, wordMul_outcome (evalSrc8_quiet he) r q src.words⟩
  simp only [wordMulSrc8, hp, hh, or_self, if_false, he]

/-- Settles O49. -/
theorem byteMulResult : Obligations.ByteMulResult := by
  refine ⟨fun r src s s1 q hp hh he => byteMulSrc8_answers hp hh he, fun r imm s => ⟨_, rfl, ?_⟩⟩
  rw [← BitVec.toNat_setWidth_of_le (b := imm) (show 6 ≤ 8 by decide)]
  exact byteMul_outcome (Quiet.refl s) r _ 1

/-- Settles O50. -/
theorem wordMulResult : Obligations.WordMulResult := by
  refine ⟨fun r src s s1 q hp hh he => wordMulSrc8_answers hp hh he, fun r imm s => ⟨_, rfl, ?_⟩⟩
  rw [← BitVec.toNat_setWidth_of_le (b := imm) (show 6 ≤ 8 by decide)]
  exact wordMul_outcome (Quiet.refl s) r _ 1

end Sys2Proof.Machine

/-! ### Operands that stop an instruction (R25, R43, R107, R111) -/

namespace Sys2Proof.Machine

/-- What holds of every instruction of some forms, the forms' lists with their operations put together. -/
theorem forall_mem_ops {β : Type} {P : Instr → Prop} {l : List (Instr × β)} {i : Instr} (hl : ∀ e ∈ l, P e.1) (hi : P i) :
    ∀ j ∈ l.map Prod.fst ++ [i], P j := by
  simp only [List.mem_append, List.mem_map, List.mem_singleton]
  rintro j (⟨e, he, rfl⟩ | rfl)
  exacts [hl e he, hi]

/-- Where an operand moves a pointer it is a memory form, so no extension. -/
theorem zextUnderCompare_of_pointer {w : Word} {src : WordSrc} {k : Reg16} (h : wordSrcPointer src = some k) :
    zextUnderCompare w src = false :=
  zextUnderCompare_of_ne_ext fun q hq => by rw [hq] at h; cases h

theorem wordCompareSrc_overlap {op : BinOp} {w : Word} {r : Reg16} {src : WordSrc} {s : State}
    (h : wordSrcPointer src = some r) : wordCompareSrc op w r src s = .refused .pointerOverlap := by
  simp only [wordCompareSrc, zextUnderCompare_of_pointer h, Bool.false_eq_true, if_false, if_pos h]

theorem byteDestReg_overlap {op : BinOp} {dst : ByteDest} {r : Reg8} {s : State}
    (h : byteDestPointer dst = some r.pair) : byteDestReg op dst r s = .refused .pointerOverlap := by
  have hf : dst ≠ .flags := fun hf => by rw [hf] at h; cases h
  simp only [byteDestReg, if_neg hf, if_pos h]

/-- Settles O25. -/
theorem pointerOverlapStops : Obligations.PointerOverlapStops := by
  refine ⟨fun r src s h => ?_, fun r src s h => ?_, fun dst r s h => ?_, fun dst r s h => ?_, fun r src s h => ?_,
    fun r src s h => ?_, fun r k src s h => ⟨if_pos (.inr h), if_pos (.inr h)⟩⟩
  · refine forall_mem_ops (List.forall_mem_append.mpr ⟨fun e he => ?_, fun e he => ?_⟩) (if_pos h)
    · exact (exec_byteRegSrcOps r src s e he).trans (if_pos h)
    · exact (exec_byteCompareSrcOps r src s e he).trans (if_pos h)
  · refine forall_mem_ops (List.forall_mem_append.mpr ⟨fun e he => ?_, fun e he => ?_⟩) (if_pos h)
    · exact (exec_wordRegSrcOps r src s e he).trans (if_pos h)
    · exact (exec_wordCompareSrcOps r src s e he).trans (wordCompareSrc_overlap h)
  · refine List.forall_mem_cons.mpr ⟨if_pos h, forall_mem_ops (fun e he => ?_) (if_pos h)⟩
    exact (exec_byteDestRegOps dst r s e he).trans (byteDestReg_overlap h)
  · refine List.forall_mem_cons.mpr ⟨if_pos h, forall_mem_ops (fun e he => ?_) (if_pos h)⟩
    exact (exec_wordDestRegOps dst r s e he).trans (if_pos h)
  · exact forall_mem_ops (fun e he => (exec_byteShiftSrcOps r src s e he).trans (if_pos h)) (if_pos (.inl h))
  · exact forall_mem_ops (fun e he => (exec_wordShiftSrcOps r src s e he).trans (if_pos h)) (if_pos (.inl h))

section
variable {op : BinOp} {w : Word} {r : Reg16} {src : WordSrc} {dst : WordDest} {s s1 : State} {e : Refusal}

theorem wordRegSrc_error (hp : wordSrcPointer src ≠ some r) (he : evalWordSrc w src s = .error e) :
    wordRegSrc op w r src s = .refused e := by
  simp only [wordRegSrc, if_neg hp, he]

theorem wordCompareSrc_error (hp : wordSrcPointer src ≠ some r) (he : evalWordSrc w src s = .error e) :
    wordCompareSrc op w r src s = .refused e := by
  have hz : zextUnderCompare w src = false := zextUnderCompare_of_ne_ext fun q hq => by rw [hq] at he; cases he
  simp only [wordCompareSrc, hz, Bool.false_eq_true, if_false, if_neg hp, he]

theorem wordMovRegSrc_error (hp : wordSrcPointer src ≠ some r) (he : evalWordSrc w src s = .error e) :
    wordMovRegSrc w r src s = .refused e := by
  simp only [wordMovRegSrc, if_neg hp, he]

theorem wordDestReg_error (hp : wordDestPointer dst ≠ some r) (he : evalWordDest .modify dst s = .error e) :
    wordDestReg op dst r s = .refused e := by
  simp only [wordDestReg, if_neg hp, he]

theorem wordSwapDestReg_error (hp : wordDestPointer dst ≠ some r) (he : evalWordDest .modify dst s = .error e) :
    wordSwapDestReg dst r s = .refused e := by
  simp only [wordSwapDestReg, if_neg hp, he]

theorem wordMovDestReg_error (hp : wordDestPointer dst ≠ some r) (he : evalWordDest .write dst s = .error e) :
    wordMovDestReg dst r s = .refused e := by
  simp only [wordMovDestReg, if_neg hp, he]

theorem wordDestReg_last (hp : wordDestPointer dst ≠ some r) (he : evalWordDest .modify dst s = .ok (.mem 0xffff, s1)) :
    wordDestReg op dst r s = .refused .accessWrap := by
  simp only [wordDestReg, if_neg hp, he, readWordLoc, readWord_last]

theorem wordSwapDestReg_last (hp : wordDestPointer dst ≠ some r)
    (he : evalWordDest .modify dst s = .ok (.mem 0xffff, s1)) : wordSwapDestReg dst r s = .refused .accessWrap := by
  simp only [wordSwapDestReg, if_neg hp, he, readWordLoc, readWord_last]

theorem wordMovDestReg_last (hp : wordDestPointer dst ≠ some r) (he : evalWordDest .write dst s = .ok (.mem 0xffff, s1)) :
    wordMovDestReg dst r s = .refused .accessWrap := by
  simp only [wordMovDestReg, if_neg hp, he, writeWordLoc, storeWord_last]

theorem jumpWordSrc_error (he : evalWordSrc w src s = .error e) : jumpWordSrc w src s = .refused e := by
  simp only [jumpWordSrc, he]

theorem usesStackPointer_eq_false (h1 : src ≠ .pop) (h2 : src ≠ .sp) : usesStackPointer src = false := by
  cases src with
  | pop => exact absurd rfl h1
  | sp => exact absurd rfl h2
  | reg | ext | imm | mem => rfl

theorem callWordSrc_error (h1 : src ≠ .pop) (he : evalWordSrc w src s = .error e) : callWordSrc w src s = .refused e := by
  have h2 : src ≠ .sp := fun h2 => by rw [h2] at he; cases he
  simp only [callWordSrc, usesStackPointer_eq_false h1 h2, Bool.false_eq_true, if_false, he]

end

theorem byteMovDestReg_error {dst : ByteDest} {r : Reg8} {s : State} {e : Refusal}
    (hp : byteDestPointer dst ≠ some r.pair) (he : evalByteDest .write dst s = .error e) :
    byteMovDestReg dst r s = .refused e := by
  simp only [byteMovDestReg, if_neg hp, he]

theorem wordShiftSrc8_error {op : ShiftOp} {r : Reg16} {src : Src8} {s : State} {e : Refusal}
    (hp : src8Pointer src ≠ some r) (he : evalSrc8 src8StepWord src s = .error e) :
    wordShiftSrc8 op r src s = .refused e := by
  simp only [wordShiftSrc8, if_neg hp, he]

theorem wordMulSrc8_error {r : Reg16} {src : Src8} {s : State} {e : Refusal} (hp : src8Pointer src ≠ some r)
    (hh : src8Pointer src ≠ some .hg) (he : evalSrc8 src8StepWord src s = .error e) :
    wordMulSrc8 r src s = .refused e := by
  simp only [wordMulSrc8, hp, hh, or_self, if_false, he]

/-- With the step 2 no 16-bit shift or multiply can pop its `src8` from the last byte of the stack page (log 4). -/
theorem exec_wordSrc8Instrs_pop_last {s : State} (hp : s.p = 0xff) (h2 : src8StepWord = 2) (r : Reg16) :
    ∀ i ∈ wordSrc8Instrs r .pop, exec i s = .refused .stackWrap := by
  have he : evalSrc8 src8StepWord .pop s = .error .stackWrap := evalSrc8_pop_error (by rw [h2, hp]; decide)
  have hp (k : Reg16) : src8Pointer .pop ≠ some k := fun h => by cases h
  refine forall_mem_ops (fun e hmem => ?_) (wordMulSrc8_error (hp r) (hp .hg) he)
  exact (exec_wordShiftSrcOps r .pop s e hmem).trans (wordShiftSrc8_error (hp r) he)

/-- Settles O59: each form passes on the reason of its operand. -/
theorem refusedOperandStops : Obligations.RefusedOperandStops := by
  refine fun s e => ⟨fun r src hp => ?_, fun dst r hp he => byteMovDestReg_error hp he, fun dst r hp i hi he => ?_,
    fun dst r s1 hp i hi he => ?_, fun dst r hp he => wordMovDestReg_error hp he,
    fun dst r s1 hp he => wordMovDestReg_last hp he, fun r hff => ?_,
    fun src => ⟨jumpWordSrc_error, fun h1 he => callWordSrc_error h1 he⟩⟩
  · refine forall_mem_ops (P := fun i => evalWordSrc (encodeWord i) src s = .error e → exec i s = .refused e)
      (List.forall_mem_append.mpr ⟨fun x hx he => ?_, fun x hx he => ?_⟩) fun he => wordMovRegSrc_error hp he
    · exact (exec_wordRegSrcOps r src s x hx).trans (wordRegSrc_error hp he)
    · exact (exec_wordCompareSrcOps r src s x hx).trans (wordCompareSrc_error hp he)
  · refine forall_mem_ops (i := .swap16DestReg dst r) (P := fun i => exec i s = .refused e) (fun x hx => ?_)
      (wordSwapDestReg_error hp he) i hi
    exact (exec_wordDestRegOps dst r s x hx).trans (wordDestReg_error hp he)
  · refine forall_mem_ops (i := .swap16DestReg dst r) (P := fun i => exec i s = .refused .accessWrap) (fun x hx => ?_)
      (wordSwapDestReg_last hp he) i hi
    exact (exec_wordDestRegOps dst r s x hx).trans (wordDestReg_last hp he)
  · exact src8StepWord_cases.imp_right fun h2 => exec_wordSrc8Instrs_pop_last hff h2 r

/-! ### Moves (41_mov_swap.md) -/

theorem byteMovRegSrc_answers {r : Reg8} {src : ByteSrc} {s s1 : State} {v : Byte}
    (hp : byteSrcPointer src ≠ some r.pair) (he : evalByteSrc src s = .ok (v, s1)) :
    Answers (byteMovRegSrc r src s) (ByteRegOutcome s s1 r v s.flags src.words) :=
  ⟨_, by simp only [byteMovRegSrc, if_neg hp, he], byteMov_outcome (evalByteSrc_quiet he) r v _⟩

theorem wordMovRegSrc_answers {w : Word} {r : Reg16} {src : WordSrc} {s s1 : State} {v : Word}
    (hp : wordSrcPointer src ≠ some r) (he : evalWordSrc w src s = .ok (v, s1)) :
    Answers (wordMovRegSrc w r src s) (WordRegOutcome s s1 r v s.flags src.words) :=
  ⟨_, by simp only [wordMovRegSrc, if_neg hp, he], wordMov_outcome (evalWordSrc_quiet he) r v _⟩

/-- Settles O26. -/
theorem movRegSrcResult : Obligations.MovRegSrcResult :=
  ⟨fun _ _ _ _ _ hp he => byteMovRegSrc_answers hp he, fun _ _ _ _ _ hp he => wordMovRegSrc_answers hp he⟩

theorem byteMovDestReg_answers {dst : ByteDest} {r : Reg8} {s s1 : State} {loc : ByteLoc} (hw : s.mem.wf = true)
    (hp : byteDestPointer dst ≠ some r.pair) (he : evalByteDest .write dst s = .ok (loc, s1)) :
    Answers (byteMovDestReg dst r s) (ByteDestOutcome s s1 loc (s.reg8 r) s.flags dst.words) :=
  ⟨_, by simp only [byteMovDestReg, if_neg hp, he], byteDest_outcome hw he _ _⟩

theorem wordMovDestReg_answers {dst : WordDest} {r : Reg16} {s s1 : State} {loc : WordLoc} (hw : s.mem.wf = true)
    (hp : wordDestPointer dst ≠ some r) (he : evalWordDest .write dst s = .ok (loc, s1)) (ok : wordLocOk loc) :
    Answers (wordMovDestReg dst r s) (WordDestOutcome s s1 loc (s.reg16 r) s.flags dst.words) := by
  obtain ⟨s2, e2, h2⟩ := wordDest_outcome hw he ok (s.reg16 r)
  exact ⟨_, by simp only [wordMovDestReg, if_neg hp, he, e2], h2 _⟩

/-- Settles O27. -/
theorem movDestRegResult : Obligations.MovDestRegResult :=
  ⟨fun _ _ _ _ _ hw hp he => byteMovDestReg_answers hw hp he,
    fun _ _ _ _ _ hw hp he ok => wordMovDestReg_answers hw hp he ok⟩

theorem decodeWords_movImm8_word (rr : BitVec 2) (g : BitVec 1) (imm : BitVec 8) (x : Word) :
    decodeWords (0b001#3 ++ g ++ 0b01#2 ++ rr ++ imm) x = some (.mov8RegImm (reg8OfNum (rr ++ g)) imm) := by
  have hg : (0b001#3 ++ g ++ 0b01#2 : BitVec 6) = 0b001#3 ++ g ++ 0#1 ++ 1#1 := by revert g; decide
  have h := decodeWords_movImm8 (reg8OfNum (rr ++ g)) imm x
  rwa [wordM8, rr_reg8OfNum, low_reg8OfNum, ← hg] at h

theorem decodeWords_movImm16_word (rr : BitVec 2) (imm : BitVec 8) (x : Word) :
    decodeWords (0b000101#6 ++ rr ++ imm) x = some (.mov16RegImm (reg16OfNum rr) imm) := by
  have h := decodeWords_movImm16 (reg16OfNum rr) imm x
  rwa [wordM16, num_reg16OfNum] at h

/-- Settles O28: the sign extension is the number that the immediate denotes. -/
theorem movRegImmResult : Obligations.MovRegImmResult :=
  ⟨fun rr g imm x => ⟨decodeWords_movImm8_word rr g imm x, decodeWords_movImm16_word rr imm x⟩,
    fun r imm s => ⟨_, rfl, byteMov_outcome (Quiet.refl s) r imm 1⟩,
    fun r imm s => ⟨_, rfl, wordMov_outcome (Quiet.refl s) r (imm.signExtend 16) 1⟩⟩

theorem readByte_zp (zp : BitVec 7) (s : State) : s.readByte (zpByteAddr zp) = s.mem.read zp.toNat := by
  rw [State.readByte, zpByteAddr_toNat]

/-- Settles O29. -/
theorem movRegZpResult : Obligations.MovRegZpResult := by
  refine fun zp s => ⟨fun r => ⟨_, rfl, ?_⟩, fun r => ⟨_, by simp only [exec, execMov16RegZp, readWord_zp]; rfl, ?_⟩⟩
  · rw [← readByte_zp]; exact byteMov_outcome (Quiet.refl s) r _ 1
  · rw [← wordLocValue_zp]; exact wordMov_outcome (Quiet.refl s) r _ 1

/-- Settles O30. -/
theorem movZpRegResult : Obligations.MovZpRegResult := by
  refine fun zp s hw => ⟨fun r => ⟨_, rfl, ?_⟩, fun r => ⟨_, by simp only [exec, execMov16ZpReg, storeWord_zp]; rfl, ?_⟩,
    zpByteAddr_toNat zp, zpWordAddr_toNat zp⟩
  · exact ⟨advances_advance rfl _, rfl, storesByte_of rfl rfl hw rfl rfl, fun _ => rfl, rfl, rfl⟩
  · exact ⟨advances_advance rfl _, rfl, storesWord_of (zpWordAddr_ne zp) rfl rfl hw rfl rfl, fun _ => rfl, rfl, rfl⟩

/-- Settles O31. -/
theorem notResult : Obligations.NotResult := by
  refine fun s => ⟨fun r1 r2 => ⟨_, rfl, ?_⟩, fun r1 r2 => ⟨_, rfl, ?_⟩⟩
  · exact ⟨(setsReg8_setReg8 s r1 _).congr rfl, by simp, by simp, by simp [State.draw, flagsOfBits],
      by simp [State.draw, flagsOfBits], by simp, by simp, advances_advance (by simp) _, by simp, by simp⟩
  · exact ⟨(setsReg16_setReg16 s r1 _).congr rfl, by simp, by simp, by simp [State.draw, flagsOfBits],
      by simp [State.draw, flagsOfBits], by simp, by simp, advances_advance (by simp) _, by simp, by simp⟩

/-! ### Swaps (R128, R129) -/

/-- Both values read before either is written, at any location that the destination's evaluation leaves as it was. -/
theorem byteSwap_outcome {s s1 : State} {loc : ByteLoc} (q : Quiet s s1) (hw : s.mem.wf = true)
    (hl : (∀ a, loc ≠ .mem a) → s1 = s) (hd : s1.draws = s.draws) (r : Reg8) (words : Nat) :
    ByteSwapOutcome s s1 loc r words
      (((writeByteLoc loc (s.reg8 r) (readByteLoc loc s1).2).setReg8 r (readByteLoc loc s1).1).advance words) := by
  obtain ⟨hpc, hf, hm, hs⟩ := q
  cases loc with
  | reg k =>
    obtain rfl := hl nofun
    refine ⟨advances_advance (by simp [writeByteLoc, readByteLoc]) _, by simp [readByteLoc, byteLocValue], ?_,
      fun x hr hk => ?_, ?_, ?_, ?_, ?_, ?_⟩ <;> simp_all [writeByteLoc, readByteLoc]
  | flags =>
    obtain rfl := hl nofun
    refine ⟨advances_advance (by simp [writeByteLoc, readByteLoc]) _, by simp [readByteLoc, byteLocValue], ?_,
      fun x hr => ?_, ?_, ?_, ?_, ?_⟩ <;> simp_all [writeByteLoc, readByteLoc]
  | sp =>
    obtain rfl := hl nofun
    refine ⟨advances_advance (by simp [writeByteLoc, readByteLoc]) _, by simp [readByteLoc, byteLocValue], ?_,
      fun x hr => ?_, ?_, ?_, ?_, ?_⟩ <;> simp_all [writeByteLoc, readByteLoc]
  | mem a =>
    refine ⟨advances_advance (by simpa [writeByteLoc, readByteLoc] using hpc) _,
      by simp [readByteLoc, byteLocValue, State.readByte, hm], storesByte_of hm hs hw ?_ ?_, fun x hr => ?_, ?_, ?_, ?_⟩ <;>
      simp_all [writeByteLoc, readByteLoc]

theorem destStack_draws {role : DestRole} {s s1 : State} {n : Nat} {a : Word}
    (h : destStack role n s = .ok (a, s1)) : s1.draws = s.draws := by
  cases role with
  | write => rcases push_cases s n with ⟨_, e⟩ | ⟨_, e⟩ <;> cases e.symm.trans h; rfl
  | modify => rcases top_cases s n with ⟨_, e⟩ | ⟨_, e⟩ <;> cases e.symm.trans h; rfl

/-- No evaluation of a destination consumes an arbitrary value. -/
theorem evalWordDest_draws {role : DestRole} {dst : WordDest} {s s1 : State} {loc : WordLoc}
    (h : evalWordDest role dst s = .ok (loc, s1)) : s1.draws = s.draws := by
  cases dst with
  | stack =>
    simp only [evalWordDest] at h
    split at h
    · cases h
    · next e => cases h; exact destStack_draws e
  | mem m => cases h; simp
  | reg | sp => cases h; rfl

theorem byteSwapDestReg_answers {dst : ByteDest} {r : Reg8} {s s1 : State} {loc : ByteLoc} (hw : s.mem.wf = true)
    (hp : byteDestPointer dst ≠ some r.pair) (he : evalByteDest .modify dst s = .ok (loc, s1)) :
    Answers (byteSwapDestReg dst r s) (ByteSwapOutcome s s1 loc r dst.words) :=
  ⟨_, by simp only [byteSwapDestReg, if_neg hp, he],
    byteSwap_outcome (evalByteDest_quiet he) hw (evalByteDest_same he) (evalByteDest_draws he) r _⟩

/-- As `byteSwap_outcome`; a word at the last address is not to be exchanged. -/
theorem wordSwap_outcome {s s1 : State} {loc : WordLoc} (q : Quiet s s1) (hw : s.mem.wf = true)
    (hl : (∀ a, loc ≠ .mem a) → s1 = s) (hd : s1.draws = s.draws) (ok : wordLocOk loc) (r : Reg16) :
    ∃ s2, writeWordLoc loc (s.reg16 r) s1 = .ok s2 ∧
      ∀ words, WordSwapOutcome s s1 loc r words ((s2.setReg16 r (wordLocValue loc s)).advance words) := by
  obtain ⟨hpc, hf, hm, hs⟩ := q
  cases loc with
  | reg k =>
    obtain rfl := hl nofun
    refine ⟨_, rfl, fun words => ⟨advances_advance (by simp) _, by simp, by simp, by simp, ?_, fun x hr hk => ?_, by simp,
      by simp, by simp⟩⟩
    · by_cases h : k = r
      · subst h; simp [wordLocValue]
      · simp [h]
    · exact (reg8_setReg16_of_ne hr).trans (reg8_setReg16_of_ne hk)
  | sp =>
    obtain rfl := hl nofun
    exact ⟨_, rfl, fun words => ⟨advances_advance (by simp) _, by simp, by simp, by simp, by simp,
      fun x hr => reg8_setReg16_of_ne hr, by simp, by simp⟩⟩
  | mem a =>
    exact ⟨_, storeWord_ok ok, fun words => ⟨advances_advance (by simpa using hpc) _, by simp, by simpa using hf, by simp,
      storesWord_of ok hm hs hw (by simp) (by simp), fun x hr => reg8_setReg16_of_ne hr, by simp⟩⟩

theorem wordSwapDestReg_answers {dst : WordDest} {r : Reg16} {s s1 : State} {loc : WordLoc} (hw : s.mem.wf = true)
    (hp : wordDestPointer dst ≠ some r) (he : evalWordDest .modify dst s = .ok (loc, s1)) (ok : wordLocOk loc) :
    Answers (wordSwapDestReg dst r s) (WordSwapOutcome s s1 loc r dst.words) := by
  obtain ⟨s2, e2, h2⟩ := wordSwap_outcome (evalWordDest_quiet he) hw (evalWordDest_same he) (evalWordDest_draws he) ok r
  exact ⟨_, by simp only [wordSwapDestReg, if_neg hp, he, readWordLoc_eq he ok, e2], h2 _⟩

/-- Settles O32. -/
theorem swapDestRegResult : Obligations.SwapDestRegResult :=
  ⟨fun _ _ _ _ _ hw hp he => byteSwapDestReg_answers hw hp he,
    fun _ _ _ _ _ hw hp he ok => wordSwapDestReg_answers hw hp he ok⟩

/-- Settles O33: a swap with a location in memory, which is evaluated without side effects. -/
theorem swapZpRegResult : Obligations.SwapZpRegResult := by
  refine fun zp s hw => ⟨fun r => ⟨_, rfl, ?_⟩, fun r => ?_⟩
  · exact byteSwap_outcome (loc := .mem (zpByteAddr zp)) (Quiet.refl s) hw (fun _ => rfl) rfl r 1
  · obtain ⟨s2, e2, h2⟩ := wordSwap_outcome (loc := .mem (zpWordAddr zp)) (Quiet.refl s) hw (fun _ => rfl) rfl
      (zpWordAddr_ne zp) r
    rw [writeWordLoc] at e2
    exact ⟨_, by simp only [exec, execSwap16ZpReg, readWord_zp, e2], h2 1⟩

end Sys2Proof.Machine

/-! ### Branches (R211, R212) -/

namespace Sys2Proof.Machine

/-- A conditional branch: its word, and its two ways. -/
theorem conditionalBranch_result {i : Instr} {c : BitVec 4} {imm : BitVec 8} {cc : Cond} {P : Flags → Prop}
    (hi : branchOf c imm = i) (he : ∀ s, exec i s = branchIf cc imm s) (hP : ∀ f, cc.holds f = true ↔ P f) :
    (∀ x : Word, decodeWords (0#4 ++ c ++ imm) x = some i) ∧
      ∀ s : State, (P s.flags → Answers (exec i s) (PcOutcome s s (s.pc + BitVec.ofInt 16 (2 * imm.toInt)))) ∧
        (¬ P s.flags → Answers (exec i s) (PcOutcome s s (s.pc + 2))) := by
  refine ⟨fun x => ?_, fun s => ?_⟩
  · rw [← hi]; exact decodeWords_branch imm x c
  · rw [he]; exact branchIf_answers (hP s.flags)

/-- Settles O51. -/
theorem branchOnOneFlag : Obligations.BranchOnOneFlag := fun _ =>
  List.forall_iff_forall_mem.mp
    ⟨conditionalBranch_result (cc := .z) rfl (fun _ => rfl) (by simp [Cond.holds]),
      conditionalBranch_result (cc := .nz) rfl (fun _ => rfl) (by simp [Cond.holds]),
      conditionalBranch_result (cc := .s) rfl (fun _ => rfl) (by simp [Cond.holds]),
      conditionalBranch_result (cc := .ns) rfl (fun _ => rfl) (by simp [Cond.holds]),
      conditionalBranch_result (cc := .c) rfl (fun _ => rfl) (by simp [Cond.holds]),
      conditionalBranch_result (cc := .nc) rfl (fun _ => rfl) (by simp [Cond.holds]),
      conditionalBranch_result (cc := .v) rfl (fun _ => rfl) (by simp [Cond.holds]),
      conditionalBranch_result (cc := .nv) rfl (fun _ => rfl) (by simp [Cond.holds])⟩

/-- Settles O52. -/
theorem branchOnTwoFlags : Obligations.BranchOnTwoFlags := fun _ =>
  List.forall_iff_forall_mem.mp
    ⟨conditionalBranch_result (cc := .a) rfl (fun _ => rfl) (by simp [Cond.holds]),
      conditionalBranch_result (cc := .na) rfl (fun _ => rfl) (by simp [Cond.holds]),
      conditionalBranch_result (cc := .g) rfl (fun _ => rfl) (by simp [Cond.holds]),
      conditionalBranch_result (cc := .ng) rfl (fun _ => rfl) (by simp [Cond.holds])⟩

theorem execBranchAlways_eq (imm : BitVec 8) (s : State) :
    exec (.branchAlways imm) s = .next (s.setPc (s.pc + BitVec.ofInt 16 (2 * imm.toInt))) := by
  rw [← branchTarget_eq]; rfl

/-- Settles O53. -/
theorem branchAlwaysResult : Obligations.BranchAlwaysResult := by
  refine fun imm => ⟨fun x => decodeWords_branch imm x 0, fun s => ⟨⟨_, execBranchAlways_eq imm s, setPc_outcome s _⟩, ?_⟩⟩
  rintro rfl
  have hpc : s.pc + BitVec.ofInt 16 (2 * (0 : BitVec 8).toInt) = s.pc := BitVec.add_zero s.pc
  rw [execBranchAlways_eq, hpc]; rfl

/-! ### Jumps, calls and returns (R231 to R234) -/

theorem pushWord_ok {s : State} (v : Word) (h : 2 ≤ s.p.toNat) : s.pushWord v =
    .ok (((s.setP (s.p - 2)).storeByte (stackAddr (s.p - 2)) (loByte v)).storeByte (stackAddr (s.p - 2) + 1) (hiByte v)) :=
  ((pushWord_cases s v).resolve_left fun e => by omega).2

theorem pushWord_error {s : State} (v : Word) (h : s.p.toNat < 2) : s.pushWord v = .error .stackWrap :=
  ((pushWord_cases s v).resolve_right fun e => by omega).2

theorem execBranchCall_error {s : State} (imm : BitVec 8) (h : s.p.toNat < 2) :
    exec (.branchCall imm) s = .refused .stackWrap := by
  simp only [exec, execBranchCall, pushWord_error _ h]

theorem execBranchCall_answers {s : State} (imm : BitVec 8) (h : 2 ≤ s.p.toNat) (hw : s.mem.wf = true) :
    Answers (exec (.branchCall imm) s) (CallOutcome s s (s.pc + 2) (s.pc + BitVec.ofInt 16 (2 * imm.toInt))) := by
  rw [← branchTarget_eq]
  exact ⟨_, by simp only [exec, execBranchCall, pushWord_ok _ h]; rfl, call_outcome (Quiet.refl s) hw (s.pc + 2) _⟩

/-- Settles O54. -/
theorem branchCallResult : Obligations.BranchCallResult := fun imm _ =>
  ⟨execBranchCall_error imm, execBranchCall_answers imm⟩

theorem setPc_outcome_of_quiet {s s1 : State} (q : Quiet s s1) (x : Word) : PcOutcome s s1 x (s1.setPc x) :=
  have ⟨_, hf, hm, hs⟩ := q
  ⟨rfl, fun _ => rfl, rfl, hf, rfl, hm, hs⟩

theorem jumpWordSrc_answers {w : Word} {src : WordSrc} {s s1 : State} {v : Word}
    (he : evalWordSrc w src s = .ok (v, s1)) (hv : v.getLsbD 0 = false) :
    Answers (jumpWordSrc w src s) (PcOutcome s s1 v) :=
  ⟨_, by simp only [jumpWordSrc, he, jumpTo_even hv], setPc_outcome_of_quiet (evalWordSrc_quiet he) v⟩

theorem jumpWordSrc_odd {w : Word} {src : WordSrc} {s s1 : State} {v : Word}
    (he : evalWordSrc w src s = .ok (v, s1)) (hv : v.getLsbD 0 = true) : jumpWordSrc w src s = .refused .oddPc := by
  simp only [jumpWordSrc, he, jumpTo_odd hv]

theorem execJumpZp_eq (zp : BitVec 7) (s : State) : exec (.jumpZp zp) s =
    s.jumpTo (joinBytes (s.mem.read (2 * zp.toNat + 1)) (s.mem.read (2 * zp.toNat))) := by
  simp only [exec, execJumpZp, readWord_zp, wordLocValue_zp]

/-- Settles O55. -/
theorem jumpResult : Obligations.JumpResult := by
  refine ⟨fun src s s1 v he => ⟨jumpWordSrc_answers he, jumpWordSrc_odd he⟩, fun zp s v hv => ?_⟩
  rw [execJumpZp_eq, ← hv]
  exact ⟨fun h => ⟨_, jumpTo_even h, setPc_outcome s v⟩, jumpTo_odd⟩

section
variable {w : Word} {src : WordSrc} {s s1 : State} {v : Word} (h1 : src ≠ .pop) (h2 : src ≠ .sp)
  (he : evalWordSrc w src s = .ok (v, s1))
include h1 h2 he

theorem callWordSrc_stackWrap (hp : s.p.toNat < 2) : callWordSrc w src s = .refused .stackWrap := by
  rw [← evalWordSrc_p h1 he] at hp
  simp only [callWordSrc, usesStackPointer_eq_false h1 h2, Bool.false_eq_true, if_false, he, pushWord_error _ hp]

theorem callWordSrc_odd (hp : 2 ≤ s.p.toNat) (hv : v.getLsbD 0 = true) : callWordSrc w src s = .refused .oddPc := by
  rw [← evalWordSrc_p h1 he] at hp
  simp only [callWordSrc, usesStackPointer_eq_false h1 h2, Bool.false_eq_true, if_false, he, pushWord_ok _ hp,
    jumpTo_odd hv]

theorem callWordSrc_answers (hp : 2 ≤ s.p.toNat) (hv : v.getLsbD 0 = false) (hw : s.mem.wf = true) :
    Answers (callWordSrc w src s) (CallOutcome s s1 (s.npc src.words) v) := by
  have hp1 := evalWordSrc_p h1 he
  refine ⟨_, ?_, call_outcome (evalWordSrc_quiet he) hw (s.npc src.words) v⟩
  simp only [callWordSrc, usesStackPointer_eq_false h1 h2, Bool.false_eq_true, if_false, he,
    pushWord_ok (s := s1) _ (hp1 ▸ hp), jumpTo_even hv, hp1]

end

/-- An operand that uses the stack pointer is refused (R232). -/
theorem callWordSrc_spOperand (w : Word) {src : WordSrc} (s : State) (h : src = .pop ∨ src = .sp) :
    callWordSrc w src s = .refused .callSpOperand := by
  rcases h with rfl | rfl <;> rfl

/-- Settles O56. -/
theorem callResult : Obligations.CallResult := fun _ s _ _ =>
  ⟨callWordSrc_spOperand _ s, fun h1 h2 he =>
    ⟨callWordSrc_stackWrap h1 h2 he, callWordSrc_odd h1 h2 he, callWordSrc_answers h1 h2 he⟩⟩

theorem p_ne_last {p : Byte} (h : p.toNat ≤ 0xfe) : p ≠ 0xff := by
  rintro rfl; exact absurd h (by decide)

/-- Settles O57: `ret` is `jump [pop]`. -/
theorem retResult : Obligations.RetResult := by
  refine ⟨decodeWords_ret, fun s v hv => ⟨fun hp => ?_, fun hp hodd => ?_, fun hp heven => ?_⟩⟩
  · have hlast : s.p = 0xff := BitVec.eq_of_toNat_eq (by have := s.p.isLt; show s.p.toNat = 255; omega)
    exact jumpWordSrc_error (evalWordSrc_pop_last hlast)
  · rw [hv] at hodd
    exact jumpWordSrc_odd (evalWordSrc_pop (p_ne_last hp)) hodd
  · rw [hv] at heven ⊢
    obtain ⟨t, ht, hpc, hregs, hp, hflags, hdraws, hmem⟩ := jumpWordSrc_answers (evalWordSrc_pop (p_ne_last hp)) heven
    exact ⟨t, ht, hpc, hp, hregs, hflags, hdraws, hmem⟩

/-- `ret` goes to an even word that stands at `sp`. -/
theorem execRet_of_readWord {t : State} {ra : Word} (hp : t.p.toNat ≤ 0xfe) (hra : t.readWord (stackAddr t.p) = .ok ra)
    (heven : ra.getLsbD 0 = false) :
    Answers (exec .ret t) fun u => u.pc = ra ∧ u.p = t.p + 2 ∧ SameRegs t u ∧ u.mem = t.mem := by
  have hv := Except.ok.inj (hra.symm.trans (readWord_stackAddr t t.p))
  obtain ⟨u, hu, hpc, hup, hregs, -, -, hmem, -⟩ := (retResult.2 t ra hv).2.2 hp heven
  exact ⟨u, hu, hpc, hup, hregs, hmem⟩

/-- What `ret` does to the state that a call leaves. -/
theorem execRet_of_callOutcome {s s1 t : State} {ra target : Word} (h : CallOutcome s s1 ra target t) (hp : 2 ≤ s.p.toNat)
    (heven : ra.getLsbD 0 = false) :
    Answers (exec .ret t) fun u => u.pc = ra ∧ u.p = s.p ∧ SameRegs t u ∧ u.mem = t.mem := by
  obtain ⟨-, htp, hst, -⟩ := h
  have hsub : (s.p - 2).toNat = s.p.toNat - 2 := p_toNat_sub (n := 2) (by decide) hp
  have hlt := s.p.isLt
  obtain ⟨u, hu, hpc, hup, hkeep⟩ := execRet_of_readWord (by rw [htp, hsub]; omega)
    (htp ▸ hst.readWord (stackAddr_ne_top _)) heven
  exact ⟨u, hu, hpc, by rw [hup, htp, BitVec.sub_add_cancel], hkeep⟩

/-- A `branch call` that answers has had room on the stack, and is the call of O54. -/
theorem execBranchCall_next {s t : State} {imm : BitVec 8} (hw : s.mem.wf = true) (h : exec (.branchCall imm) s = .next t) :
    2 ≤ s.p.toNat ∧ ∃ target, CallOutcome s s (s.npc 1) target t := by
  rcases Nat.lt_or_ge s.p.toNat 2 with hp | hp
  · cases (execBranchCall_error imm hp).symm.trans h
  · obtain ⟨u, hu, hout⟩ := execBranchCall_answers imm hp hw
    cases hu.symm.trans h
    exact ⟨hp, _, hout⟩

/-- A `call` that answers has an operand that does not use the stack pointer, and an even target, and has had room on
the stack; it is the call of O56. -/
theorem callWordSrc_next {w : Word} {src : WordSrc} {s t : State} (hw : s.mem.wf = true)
    (h : callWordSrc w src s = .next t) : 2 ≤ s.p.toNat ∧ ∃ s1 target, CallOutcome s s1 (s.npc src.words) target t := by
  by_cases h1 : src = .pop
  · cases (callWordSrc_spOperand w s (.inl h1)).symm.trans h
  by_cases h2 : src = .sp
  · cases (callWordSrc_spOperand w s (.inr h2)).symm.trans h
  cases he : evalWordSrc w src s with
  | error e => cases (callWordSrc_error h1 he).symm.trans h
  | ok x =>
    obtain ⟨v, s1⟩ := x
    rcases Nat.lt_or_ge s.p.toNat 2 with hp | hp
    · cases (callWordSrc_stackWrap h1 h2 he hp).symm.trans h
    · cases hv : v.getLsbD 0 with
      | true => cases (callWordSrc_odd h1 h2 he hp hv).symm.trans h
      | false =>
        obtain ⟨u, hu, hout⟩ := callWordSrc_answers h1 h2 he hp hv hw
        cases hu.symm.trans h
        exact ⟨hp, s1, v, hout⟩

/-- Settles O58: a call leaves its return address, which is even, at the stack pointer where `ret` looks for it. -/
theorem returnAfterCall : Obligations.ReturnAfterCall := by
  rintro i s t (⟨src, rfl⟩ | ⟨imm, rfl⟩) ⟨hw, -, hpc⟩ h
  · obtain ⟨hp, s1, target, hout⟩ := callWordSrc_next hw h
    exact execRet_of_callOutcome hout hp (even_npc hpc src.words)
  · obtain ⟨hp, target, hout⟩ := execBranchCall_next hw h
    exact execRet_of_callOutcome hout hp (even_npc hpc 1)

end Sys2Proof.Machine
